-- ==== Sys2Proof/Word.lean ====
section
/-! DEFINITION. The word types of the engine and of the bus (00_scope.md R15; 20_memory.md R50). -/

namespace Sys2Proof

/-- A character, a command byte or a DDRAM cell: eight bits, bit 0 the least significant (R15). -/
abbrev Byte := BitVec 8

/-- What the four data lines `D[3:0]` carry at once (R34). -/
abbrev Nibble := BitVec 4

/-- A DDRAM address: seven bits (R50). -/
abbrev Addr := BitVec 7

/-- An instruction word of the opcode table: nine bits, `{ESC, byte}` (R70) or `{RS, b}` (R82). -/
abbrev Word9 := BitVec 9

end Sys2Proof
end

