-- ==== Sys2Proof/Syntax.lean ====
section
/-! DEFINITION. The instructions: one constructor per mnemonic of spec/opcode_table.json. The first twelve are the input
instructions of format IN9 (30_encoding.md R70 to R76), the last ten the bus transfers of format BUS9 (R82 to R92). -/

namespace Sys2Proof

inductive Instr where
  /-- ESC (R161): the prefix byte 0x1B. -/
  | esc
  /-- ESC_R (R162): 'R' after the prefix, RESET. -/
  | escR
  /-- ESC_H (R163): 'H' after the prefix, HOME. -/
  | escH
  /-- ESC_OTHER (R164): any other byte after the prefix. -/
  | escOther (b : Byte)
  /-- NL (R165): byte 0x0A. -/
  | nl
  /-- CR (R166): byte 0x0D. -/
  | cr
  /-- TAB (R167): byte 0x09. -/
  | tab
  /-- BEL (R168): byte 0x07, FLASH. -/
  | bel
  /-- BS (R169): byte 0x08, BKSP. -/
  | bs
  /-- FF (R170): byte 0x0C, CLEAR. -/
  | ff
  /-- PUTC (R171): a printable byte, which is also the operand (R79). -/
  | putc (b : Byte)
  /-- DROP (R172): a byte with no mapping. -/
  | drop (b : Byte)
  /-- WAKE (R83): half transfer 0x3_; the low nibble is part of the word and is not sent. -/
  | wake (lo : Nibble)
  /-- MODE4 (R83): half transfer 0x2_; the low nibble is part of the word and is not sent. -/
  | mode4 (lo : Nibble)
  /-- FSET (R84): function set with its bits N and F. -/
  | fset (n f : Bool)
  /-- DOFF (R85): display off. -/
  | doff
  /-- DON (R86): display on with its bits C and B. -/
  | don (c b : Bool)
  /-- ENTRY (R87): entry mode, increment, no shift. -/
  | entry
  /-- CLR (R88): clear display. -/
  | clr
  /-- HOMEC (R88): return home. -/
  | homec
  /-- SETADDR (R89): set DDRAM address. -/
  | setaddr (a : Addr)
  /-- DATA (R90): a character code for the cell at the address counter. -/
  | data (ch : Byte)
  deriving DecidableEq, Repr

/-- The three shapes in which an instruction word travels: an input byte under the flag ESC (R70), a full bus transfer,
and a half bus transfer (R59, R82). -/
inductive Format where
  | in9
  | busFull
  | busHalf
  deriving DecidableEq, Repr

end Sys2Proof
end

