-- ==== Sys2Proof/Decode.lean ====
section
/-! DEFINITION. The decoder and the encoder of both formats of spec/opcode_table.json (30_encoding.md). Register of names:
an input word always decodes (R76); a bus word that no command of R92 has is rejected by the name of its format. -/

namespace Sys2Proof

/-- Printable ASCII, 0x20 to 0x7E, both ends included (R74). -/
def isPrintable (b : Byte) : Bool := 0x20 ≤ b.toNat && b.toNat ≤ 0x7E

/-- The control characters of R72 and the prefix of R78: the seven bytes mapped under `ESC = 0`. -/
def isMapped (b : Byte) : Bool :=
  b == 0x07#8 || b == 0x08#8 || b == 0x09#8 || b == 0x0A#8 || b == 0x0C#8 || b == 0x0D#8 || b == 0x1B#8

/-- The input decoder: the tests of R71 in their order, the maps of R72 and R73. -/
def decodeInput (esc : Bool) (b : Byte) : Instr :=
  if esc then
    if b = 0x52#8 then .escR
    else if b = 0x48#8 then .escH
    else .escOther b
  else if b = 0x1B#8 then .esc
  else if b = 0x0A#8 then .nl
  else if b = 0x0D#8 then .cr
  else if b = 0x09#8 then .tab
  else if b = 0x07#8 then .bel
  else if b = 0x08#8 then .bs
  else if b = 0x0C#8 then .ff
  else if isPrintable b then .putc b
  else .drop b

/-- Why a word is no instruction. -/
inductive DecodeError where
  /-- A full transfer carries a COMMAND byte that no rule of R84 to R89 has (R91). Safe: nothing is claimed of it. -/
  | noFullTransfer (w : Word9)
  /-- A half transfer carries anything but a wake or mode-switch nibble with RS = 0 (R105). Safe. -/
  | noHalfTransfer (w : Word9)
  deriving DecidableEq, Repr

/-- Full transfers (R84 to R90): bit 8 is RS, bits 7 to 0 the byte. -/
def decodeBusFull (w : Word9) : Except DecodeError Instr :=
  if w.getLsbD 8 then .ok (.data (w.extractLsb' 0 8))
  else if w.getLsbD 7 then .ok (.setaddr (w.extractLsb' 0 7))
  else if w = 0x01#9 then .ok .clr
  else if w = 0x02#9 then .ok .homec
  else if w = 0x06#9 then .ok .entry
  else if w = 0x08#9 then .ok .doff
  else if w.extractLsb' 2 7 = 0x03#7 then .ok (.don (w.getLsbD 1) (w.getLsbD 0))
  else if w.extractLsb' 4 5 = 0x02#5 ∧ w.extractLsb' 0 2 = 0#2 then .ok (.fset (w.getLsbD 3) (w.getLsbD 2))
  else .error (.noFullTransfer w)

/-- Half transfers (R83): only the upper nibble counts, the lower one is not sent. -/
def decodeBusHalf (w : Word9) : Except DecodeError Instr :=
  if w.extractLsb' 4 5 = 0x03#5 then .ok (.wake (w.extractLsb' 0 4))
  else if w.extractLsb' 4 5 = 0x02#5 then .ok (.mode4 (w.extractLsb' 0 4))
  else .error (.noHalfTransfer w)

/-- The decoder: total on the words of every format. Which bus format a transfer has is not in its word: it is which of
the two Signal Transmitter operations sends it (R59, R82). -/
def decode (f : Format) (w : Word9) : Except DecodeError Instr :=
  match f with
  | .in9     => .ok (decodeInput (w.getLsbD 8) (w.extractLsb' 0 8))
  | .busFull => decodeBusFull w
  | .busHalf => decodeBusHalf w

/-- The byte of an FSET transfer (R84). -/
def fsetByte (n f : Bool) : Byte :=
  0x20#8 ||| (if n then 0x08#8 else 0x00#8) ||| (if f then 0x04#8 else 0x00#8)

/-- The byte of a DON transfer (R86). -/
def donByte (c b : Bool) : Byte :=
  0x0C#8 ||| (if c then 0x02#8 else 0x00#8) ||| (if b then 0x01#8 else 0x00#8)

/-- The byte of a SETADDR transfer (R89): 0x80 OR the seven-bit address. -/
def setaddrByte (a : Addr) : Byte := 0x80#8 ||| a.setWidth 8

/-- A half transfer's byte from its upper nibble and the nibble that is not sent (R82). -/
def halfByte (hi lo : Nibble) : Byte := hi ++ lo

/-- The format each instruction's word has (R70, R82). -/
def formatOf : Instr → Format
  | .esc => .in9
  | .escR => .in9
  | .escH => .in9
  | .escOther _ => .in9
  | .nl => .in9
  | .cr => .in9
  | .tab => .in9
  | .bel => .in9
  | .bs => .in9
  | .ff => .in9
  | .putc _ => .in9
  | .drop _ => .in9
  | .wake _ => .busHalf
  | .mode4 _ => .busHalf
  | .fset _ _ => .busFull
  | .doff => .busFull
  | .don _ _ => .busFull
  | .entry => .busFull
  | .clr => .busFull
  | .homec => .busFull
  | .setaddr _ => .busFull
  | .data _ => .busFull

/-- The byte of each instruction: the input byte (R72, R73) or the transfer's byte (R83 to R90). -/
def byteOf : Instr → Byte
  | .esc => 0x1B#8
  | .escR => 0x52#8
  | .escH => 0x48#8
  | .escOther b => b
  | .nl => 0x0A#8
  | .cr => 0x0D#8
  | .tab => 0x09#8
  | .bel => 0x07#8
  | .bs => 0x08#8
  | .ff => 0x0C#8
  | .putc b => b
  | .drop b => b
  | .wake lo => halfByte 0x3#4 lo
  | .mode4 lo => halfByte 0x2#4 lo
  | .fset n f => fsetByte n f
  | .doff => 0x08#8
  | .don c b => donByte c b
  | .entry => 0x06#8
  | .clr => 0x01#8
  | .homec => 0x02#8
  | .setaddr a => setaddrByte a
  | .data ch => ch

/-- Bit 8 of each instruction's word: the flag ESC the byte is taken under (R70), or RS (R82). -/
def topBitOf : Instr → Bool
  | .esc => false
  | .escR => true
  | .escH => true
  | .escOther _ => true
  | .nl => false
  | .cr => false
  | .tab => false
  | .bel => false
  | .bs => false
  | .ff => false
  | .putc _ => false
  | .drop _ => false
  | .wake _ => false
  | .mode4 _ => false
  | .fset _ _ => false
  | .doff => false
  | .don _ _ => false
  | .entry => false
  | .clr => false
  | .homec => false
  | .setaddr _ => false
  | .data _ => true

/-- A word from its top bit and its byte, `{top, byte}` (R15, R70, R82). -/
def word9 (top : Bool) (b : Byte) : Word9 := BitVec.ofBool top ++ b

/-- The encoder: the word of an instruction in its format. -/
def encode (i : Instr) : Word9 := word9 (topBitOf i) (byteOf i)

/-- What the input decoder reads from bits numbered as spec/opcode_table.json numbers them. A word with a bit above bit 8
is no input word. The table's BUS9 rows number their bits in the same way, and each of their words is also an input word:
the machine fetches input bytes, so the word is read as one (log entry 12). How many whole bytes hold the nine bits does not
matter. -/
def decodeTableWord (_nbits w : Nat) : Option Instr :=
  if w < 512 then (decode .in9 (BitVec.ofNat 9 w)).toOption else none

end Sys2Proof
end

