-- ==== Sys2Proof/Config.lean ====
section
/-! DEFINITION. What is fixed for one machine (configuration, open timing parameters, pin assignment) and the values the
spec leaves open, which are opaque: nothing in Lean can evaluate them. -/

namespace Sys2Proof

/-- The display's font size (R9). -/
inductive Font where
  | small   -- 5x8
  | large   -- 5x10
  deriving DecidableEq, Repr

/-- The seven configuration fields of R9, the engine's control registers (R28). Raw values: R10 says which are legal. -/
structure DisplayConfig where
  lines   : Nat
  cols    : Nat
  font    : Font
  cursor  : Bool
  blink   : Bool
  ifWidth : Nat
  blInit  : Bool
  deriving DecidableEq, Repr

/-- The two waits the source does not give (R12, status OPEN): `T_WAKE3` and `T_SHORT`, in microseconds. -/
structure Timing where
  tWake3 : Nat
  tShort : Nat
  deriving DecidableEq, Repr

/-- The pin assignment of R11: for each of the twelve roles, the platform line it drives, or none (R33). -/
structure PinAssignment where
  rs  : Option Nat
  rw  : Option Nat
  e   : Option Nat
  bl  : Option Nat
  db0 : Option Nat
  db1 : Option Nat
  db2 : Option Nat
  db3 : Option Nat
  db4 : Option Nat
  db5 : Option Nat
  db6 : Option Nat
  db7 : Option Nat
  deriving DecidableEq, Repr

/-- FREE VALUE. The low nibble of the `n`-th strobe's transfer when the display is in 8-bit mode: R62 says it "is not
driven" (log entry 8). -/
opaque Config.freeNibble : Nat → BitVec 4

/-- FREE VALUE. The display's address counter after the `n`-th strobe where the spec states none: past the end of a line
(R62, U8), with `inc` false, or after a command R62 does not list (log entries 9 and 10). -/
opaque Config.freeAddr : Nat → BitVec 7

end Sys2Proof
end

