-- ==== Sys2Proof/Machine/Params.lean ====
section
/-! DEFINITION. The parameters of 00_scope.md section 5: the waits the source gives (R12), the defaults of the
configuration (R9) and of the pin assignment (R11), and when a configuration is valid (R10). -/

namespace Sys2Proof.Machine

/-- `T_SETUP` (R12): before E rises in a strobe, microseconds. -/
def tSetup : Nat := 20
/-- `T_PULSE` (R12): E high in a strobe. -/
def tPulse : Nat := 40
/-- `T_HOLD` (R12): after E falls in a strobe. -/
def tHold : Nat := 20
/-- `T_WAKE1` (R12): after the first wake write of RESET. -/
def tWake1 : Nat := 10000
/-- `T_WAKE2` (R12): after the second wake write of RESET. -/
def tWake2 : Nat := 1000
/-- `T_LONG` (R12): after clear display and return home. -/
def tLong : Nat := 2000
/-- `T_ADDR` (R12): after set DDRAM address. -/
def tAddr : Nat := 1000
/-- `T_DATA` (R12): after a data write. -/
def tData : Nat := 40
/-- `T_FLASH` (R12): after display off in FLASH. -/
def tFlash : Nat := 200000
/-- `FLASH_CYCLES` (R12): a count, "twice". -/
def flashCycles : Nat := 2

/-- The defaults of the OPEN parameters (R12; decisions D3, D4; log entry 5). -/
def defaultTiming : Timing := { tWake3 := 1000, tShort := 40 }

/-- The source's defaults (R9), with FONT small, CURSOR 0 and BLINK 0, for which the source has none (DESIGN CHOICE, log
entry 4). -/
def defaultConfig : DisplayConfig :=
  { lines := 2, cols := 16, font := .small, cursor := false, blink := false, ifWidth := 4, blInit := true }

/-- The default pin assignment of R11: RS=0, RW=1, E=2, BL=3, DB4 to DB7 on lines 4 to 7; DB0 to DB3 have no line. -/
def defaultPins : PinAssignment :=
  { rs := some 0, rw := some 1, e := some 2, bl := some 3,
    db0 := none, db1 := none, db2 := none, db3 := none,
    db4 := some 4, db5 := some 5, db6 := some 6, db7 := some 7 }

/-- When a configuration is accepted (R10). -/
def validConfig (c : DisplayConfig) : Bool :=
  (c.lines == 1 || c.lines == 2 || c.lines == 4) && decide (0 < c.cols) && decide (c.lines * c.cols ≤ 80)
    && c.ifWidth == 4

/-- A `Wait` has a positive number of microseconds (R13), so both OPEN parameters are positive. -/
def validTiming (t : Timing) : Bool := decide (0 < t.tWake3) && decide (0 < t.tShort)

end Sys2Proof.Machine
end

