-- ==== Sys2Proof/Machine/State.lean ====
section
/-! DEFINITION. The state: the engine's registers and pin latches (10_state.md R20), its control registers (R28), the
input stream (R24), the trace (00_scope.md R13), and the attached display as the companion model gives it
(20_memory.md R62). Plain data. -/

namespace Sys2Proof.Machine

/-- The three control lines an event can set (R13). -/
inductive Pin where
  | rs
  | rw
  | e
  deriving DecidableEq, Repr

/-- The events of the trace (R13). -/
inductive Event where
  /-- `Set(pin, level)`. -/
  | set (p : Pin) (level : Bool)
  /-- `SetD(n)`: the four data lines together. -/
  | setD (n : Nibble)
  /-- `Wait(t)`: at least `t` microseconds pass (R14). -/
  | wait (t : Nat)
  deriving DecidableEq, Repr

/-- DDRAM as data: (address, byte) pairs, addresses strictly rising. An address that is not listed holds no known value
(log entry 1). -/
abbrev Memory := List Host.Cell

/-- The display's state, reduced to what the engine can exercise (R62). -/
structure Display where
  /-- 4-bit interface mode. -/
  mode4   : Bool
  /-- A latched upper nibble, in 4-bit mode. -/
  half    : Option Nibble
  /-- The address counter AC. -/
  ac      : Addr
  ddram   : Memory
  /-- Display, cursor and blink bits. -/
  on      : Bool
  cur     : Bool
  blk     : Bool
  /-- Function-set bits N and F. -/
  n       : Bool
  f       : Bool
  /-- Increment entry mode. -/
  inc     : Bool
  /-- The model's own: how many strobes the display has received; it indexes the free values (log entry 21). -/
  strobes : Nat
  deriving DecidableEq, Repr

/-- The whole machine. -/
structure State where
  row     : Nat
  col     : Nat
  pc      : Nat
  esc     : Bool
  init    : Bool
  rs      : Bool
  rw      : Bool
  e       : Bool
  d       : Nibble
  bl      : Bool
  cfg     : DisplayConfig
  timing  : Timing
  pins    : PinAssignment
  /-- The bytes the host offers, first byte first; `pc` indexes them (R24). -/
  stream  : List Byte
  /-- Every event since hardware reset, oldest first (R13). -/
  trace   : List Event
  display : Display
  deriving DecidableEq, Repr

/-- The engine raises no exception and never stops by a fault (60_exceptions.md R190): there is no fault reason, and no
instruction raises one. -/
inductive Fault where
  deriving DecidableEq, Repr

/-- Why a step is refused. -/
inductive Refusal where
  /-- An instruction of the opcode table that has no meaning in `exec` yet. Raised by `exec`'s refused arms only; safe. -/
  | notModelled (mnemonic : String)
  /-- The configuration is not valid, so no engine was ever started (R10, R193, U6). Raised by the fetch; safe. -/
  | invalidConfig
  deriving DecidableEq, Repr

/-- What the fetch finds at a step (R24, R205). -/
inductive Fetched where
  /-- The configuration is invalid: there is no engine. -/
  | refuse (r : Refusal)
  /-- No byte is offered: the engine is idle. -/
  | idle
  /-- The next byte, decoded under the flag ESC. -/
  | run (i : Instr)
  deriving DecidableEq, Repr

/-- The display right after its own power-on: 8-bit mode (R62); the rest is PRESUMED, the HD44780's internal reset (log
entry 3), and no DDRAM cell has a known value (log entry 1). -/
def Display.powerOn : Display :=
  { mode4 := false, half := none, ac := 0#7, ddram := [], on := false, cur := false, blk := false,
    n := false, f := false, inc := true, strobes := 0 }

/-- The state right after hardware reset (R38, R220) of an engine with the given configuration, in front of the given
display, with the given input. The latches RS, RW, E and D are unspecified by the spec: 0 is a DESIGN CHOICE (log
entry 2). -/
def State.resetWith (cfg : DisplayConfig) (timing : Timing) (pins : PinAssignment) (stream : List Byte)
    (display : Display) : State :=
  { row := 0, col := 0, pc := 0, esc := false, init := false,
    rs := false, rw := false, e := false, d := 0#4, bl := cfg.blInit,
    cfg := cfg, timing := timing, pins := pins, stream := stream, trace := [], display := display }

/-- The machine right after reset, engine and display powered on together, with the default configuration, and no byte
offered yet. -/
def State.reset : State :=
  State.resetWith defaultConfig defaultTiming defaultPins [] Display.powerOn

end Sys2Proof.Machine
end

