-- ==== Sys2Proof/Machine/Operands.lean ====
section
/-! DEFINITION. The operands the display operations compute: the nibbles of a byte (R57), the DDRAM address of a cursor
position (R51), the bytes that depend on the configuration (R84, R86), the width of a tab (R134). -/

namespace Sys2Proof.Machine

/-- The upper nibble, bits 7 to 4 (R15, R57). -/
def hiNibble (b : Byte) : Nibble := b.extractLsb' 4 4

/-- The lower nibble, bits 3 to 0 (R15, R57). -/
def loNibble (b : Byte) : Nibble := b.extractLsb' 0 4

/-- `calc_addr(row, col)` for a display of `cols` columns (R51). -/
def calcAddr (cols row col : Nat) : Nat :=
  col + (if row = 1 ∨ row = 3 then 0x40 else 0) + (if row = 2 ∨ row = 3 then cols else 0)

/-- The seven-bit address field for the cursor position (R50, R89); R53 shows it is never truncated in a state a run
reaches. -/
def cellAddr (cols row col : Nat) : Addr := BitVec.ofNat 7 (calcAddr cols row col)

/-- The function-set byte of a configuration (R84). -/
def fsetOf (c : DisplayConfig) : Byte := fsetByte (decide (1 < c.lines)) (decide (c.font = .large))

/-- The display-on byte of a configuration (R86), recomputed at each use (R30). -/
def donOf (c : DisplayConfig) : Byte := donByte c.cursor c.blink

/-- The pad and erase character, a space (R90, R132, R134, R138). -/
def space : Byte := 0x20#8

/-- How many spaces TAB writes from column `col`: to the next multiple of eight, clamped to the edge (R134). -/
def tabWidth (cols col : Nat) : Nat := min (8 - col % 8) (cols - col)

end Sys2Proof.Machine
end

