-- ==== Sys2Proof/Machine/Device.lean ====
section
/-! DEFINITION. The attached display: DDRAM as memory, and what the display does with each strobe it receives (20_memory.md
R62, general knowledge in the spec's own words; it is no part of the engine). -/

namespace Sys2Proof.Machine

/-- What an address holds: the listed byte, or no known value. -/
def Memory.read : Memory → Nat → Option Byte
  | [], _ => none
  | (b, w) :: m, a => if b = a then some w else Memory.read m a

/-- Store a byte, keeping the addresses strictly rising. -/
def Memory.write : Memory → Nat → Byte → Memory
  | [], a, v => [(a, v)]
  | (b, w) :: m, a, v =>
    if a < b then (a, v) :: (b, w) :: m
    else if a = b then (a, v) :: m
    else (b, w) :: Memory.write m a v

/-- Every address of `m` is at least `lo` and below 0x80, and the addresses rise strictly. -/
def Memory.risesFrom : Nat → Memory → Bool
  | _, [] => true
  | lo, (b, _) :: m => decide (lo ≤ b) && decide (b < 0x80) && Memory.risesFrom (b + 1) m

/-- The canonical form of DDRAM: seven-bit addresses (R50), strictly rising. -/
def Memory.wf (m : Memory) : Bool := Memory.risesFrom 0 m

/-- "Sets every DDRAM cell to 0x20" (R62): all the addresses of the seven-bit space. -/
def Memory.blank : Memory := (List.range 0x80).map fun a => (a, space)

/-- The byte in the DDRAM cell at an address, where one is known. -/
def cell (dsp : Display) (a : Addr) : Option Byte := Memory.read dsp.ddram a.toNat

/-- The last columns of the rows of this configuration: past them R62 and U8 state no address counter. -/
def atRowEnd (cfg : DisplayConfig) (a : Addr) : Bool :=
  (List.range cfg.lines).any fun r => cellAddr cfg.cols r (cfg.cols - 1) == a

/-- The ends of the display's own lines, PRESUMED from the family: 0x27 and 0x67 with two-line addressing, 0x4F with one
line (log entry 9). -/
def atLineEnd (dsp : Display) : Bool :=
  if dsp.n then dsp.ac == 0x27#7 || dsp.ac == 0x67#7 else dsp.ac == 0x4F#7

/-- The address counter after a data write: `AC + 1` when `inc` is true (R62); a free value at the end of a line (R62, U8)
and when `inc` is false, for which R62 states none (log entry 9). -/
def nextAc (cfg : DisplayConfig) (dsp : Display) : Addr :=
  if dsp.inc && !atRowEnd cfg dsp.ac && !atLineEnd dsp then dsp.ac + 1#7
  else Config.freeAddr dsp.strobes

/-- A completed DATA transfer: `DDRAM[AC] <- b`, then the address counter moves (R62). -/
def receiveData (cfg : DisplayConfig) (b : Byte) (dsp : Display) : Display :=
  { dsp with ddram := Memory.write dsp.ddram dsp.ac.toNat b, ac := nextAc cfg dsp }

/-- A COMMAND byte R62 gives no effect for (0x00, 0x10 to 0x1F, 0x40 to 0x7F): nothing is known of the address counter or
of the cells afterwards (log entry 10). -/
def receiveUnlisted (dsp : Display) : Display :=
  { dsp with ac := Config.freeAddr dsp.strobes, ddram := [] }

/-- A completed COMMAND transfer `{hi, lo}`, by its leading one (R62). -/
def receiveCommand (hi lo : Nibble) (dsp : Display) : Display :=
  if hi.getLsbD 3 then                       -- b[7] = 1: set DDRAM address
    { dsp with ac := (hi ++ lo).extractLsb' 0 7 }
  else if hi.getLsbD 2 then                  -- 0x40 to 0x7F
    receiveUnlisted dsp
  else if hi.getLsbD 1 then                  -- b[7:5] = 0b001: function set
    { dsp with mode4 := !hi.getLsbD 0, n := lo.getLsbD 3, f := lo.getLsbD 2 }
  else if hi.getLsbD 0 then                  -- 0x10 to 0x1F
    receiveUnlisted dsp
  else if lo.getLsbD 3 then                  -- b[7:3] = 0b00001: display control
    { dsp with on := lo.getLsbD 2, cur := lo.getLsbD 1, blk := lo.getLsbD 0 }
  else if lo.getLsbD 2 then                  -- b[7:2] = 0b000001: entry mode
    { dsp with inc := lo.getLsbD 1 }
  else if lo.getLsbD 1 then                  -- b[7:1] = 0b0000001: home
    { dsp with ac := 0#7 }
  else if lo.getLsbD 0 then                  -- b = 0x01: clear
    { dsp with ddram := Memory.blank, ac := 0#7, inc := true }
  else                                       -- 0x00
    receiveUnlisted dsp

/-- A completed transfer, after which no nibble is latched. -/
def receiveByte (cfg : DisplayConfig) (rs : Bool) (hi lo : Nibble) (dsp : Display) : Display :=
  if rs then receiveData cfg (hi ++ lo) { dsp with half := none }
  else receiveCommand hi lo { dsp with half := none }

/-- One strobe, sampling RS and D (R62): in 8-bit mode a whole transfer whose lower nibble is not driven (a free value, log
entry 8); in 4-bit mode the first strobe latches the upper nibble and the second completes the byte. -/
def receiveStrobe (cfg : DisplayConfig) (rs : Bool) (nib : Nibble) (dsp : Display) : Display :=
  let after :=
    if dsp.mode4 then
      match dsp.half with
      | none => { dsp with half := some nib }
      | some hi => receiveByte cfg rs hi nib dsp
    else receiveByte cfg rs nib (Config.freeNibble dsp.strobes) dsp
  { after with strobes := dsp.strobes + 1 }

end Sys2Proof.Machine
end

