-- ==== Sys2Proof/Machine/Flags.lean ====
section
/-! DEFINITION. The conditions the operations test (10_state.md R27): there are no condition codes, each is computed from
ROW, COL and the configuration when it is tested. The two flags ESC and INIT are fields of State. -/

namespace Sys2Proof.Machine

/-- PUTC's edge test, `COL = COLS`: the pinned state (R122, R23). -/
def atEdge (s : State) : Bool := s.col == s.cfg.cols

/-- NL's last-row test, `ROW < LINES - 1` (R132), as `ROW + 1 < LINES`. -/
def notLastRow (s : State) : Bool := decide (s.row + 1 < s.cfg.lines)

/-- BKSP's column test, `COL > 0` (R138). -/
def pastLeft (s : State) : Bool := decide (0 < s.col)

end Sys2Proof.Machine
end

