-- ==== Sys2Proof/Machine/Ops.lean ====
section
/-! DEFINITION. The named operations: emitting an event (R13, R31), the Signal Transmitter (40_signal_transmitter.md), the
writes of the registers, the fetch (R24) and the hardware reset input (R220). The engine takes no exception and returns from
none (60_exceptions.md R190, R197, R198), so there is no such operation. -/

namespace Sys2Proof.Machine

/-- `emit ev`: the event is appended to the trace and its latch takes the level (R16, R31). On a falling edge of E the
display receives what RS and D hold (R62); a strobe with RW high is no write, and none is ever made (log entry 11). -/
def emit (ev : Event) (s : State) : State :=
  match ev with
  | .set .rs v => { s with trace := s.trace ++ [ev], rs := v }
  | .set .rw v => { s with trace := s.trace ++ [ev], rw := v }
  | .set .e v =>
    { s with
      trace := s.trace ++ [ev], e := v,
      display := if s.e && !v && !s.rw then receiveStrobe s.cfg s.rs s.d s.display else s.display }
  | .setD n => { s with trace := s.trace ++ [ev], d := n }
  | .wait _ => { s with trace := s.trace ++ [ev] }

/-- `strobe()` (R100). -/
def strobe (s : State) : State :=
  emit (.wait tHold) (emit (.set .e false) (emit (.wait tPulse) (emit (.set .e true) (emit (.wait tSetup) s))))

/-- `output(registerType, byte)` (R102): `r` is false for COMMAND and true for DATA. -/
def output (r : Bool) (b : Byte) (s : State) : State :=
  strobe (emit (.setD (loNibble b)) (strobe (emit (.setD (hiNibble b)) (emit (.set .rs r) (emit (.set .rw false) s)))))

/-- `outputUpperNibbleOnly(registerType, byte)` (R104). -/
def outputUpperNibbleOnly (r : Bool) (b : Byte) (s : State) : State :=
  strobe (emit (.setD (hiNibble b)) (emit (.set .rs r) (emit (.set .rw false) s)))

/-- `cmd(b, t)` (R106). -/
def cmd (b : Byte) (t : Nat) (s : State) : State := emit (.wait t) (output false b s)

/-- A wake or mode-switch write of RESET with its wait (R128, steps 1 to 4). -/
def halfCmd (b : Byte) (t : Nat) (s : State) : State := emit (.wait t) (outputUpperNibbleOnly false b s)

/-- `ROW <- v`. -/
def setRow (v : Nat) (s : State) : State := { s with row := v }
/-- `COL <- v`. -/
def setCol (v : Nat) (s : State) : State := { s with col := v }
/-- `ESC <- v`. -/
def setEsc (v : Bool) (s : State) : State := { s with esc := v }
/-- `INIT <- 1` (R26: nothing clears it). -/
def setInit (s : State) : State := { s with init := true }
/-- `PC <- PC + 1` (R24). -/
def advancePc (s : State) : State := { s with pc := s.pc + 1 }

/-- `reposition()` (R121): the set-address command for the current cursor position. -/
def reposition (s : State) : State := cmd (setaddrByte (cellAddr s.cfg.cols s.row s.col)) tAddr s

/-- The fetch: the byte at index PC, decoded under ESC (R24, R70); idle when no byte is left (R24, R205); refused when the
configuration is invalid, for then no engine was started (R10, R193). -/
def fetchInstr (s : State) : Fetched :=
  if validConfig s.cfg then
    match s.stream[s.pc]? with
    | some b => .run (decodeInput s.esc b)
    | none => .idle
  else .refuse .invalidConfig

/-- The bytes of `s.stream` with `b` at index PC (what `withFetchWord` needs). -/
def placeByte (b : Byte) (s : State) : List Byte :=
  s.stream.take s.pc ++ List.replicate (s.pc - s.stream.length) 0x00#8 ++ b :: s.stream.drop (s.pc + 1)

/-- The hardware reset input with the display left as it was (R220, R224): the configuration is sampled, every engine
register takes its reset value, no event is emitted. It comes from outside and is no part of `step` (log entry 14). -/
def hardwareReset (cfg : DisplayConfig) (stream : List Byte) (s : State) : State :=
  State.resetWith cfg s.timing s.pins stream s.display

end Sys2Proof.Machine
end

