-- ==== Sys2Proof/Machine/Bus.lean ====
section
/-! DEFINITION. The meanings of the ten bus transfers (30_encoding.md R82 to R92): the Signal Transmitter sends the
transfer (R102, R104), the pin latches and the trace follow, and the attached display acts on it (R62). No input byte is
consumed, so PC stays (log entry 12). The wait after a command belongs to the display operation that sends it (R106). -/

namespace Sys2Proof.Machine

/-- WAKE (R83): half transfer, COMMAND, upper nibble 0x3; the lower nibble has no effect at all (R104). -/
def execWake (lo : Nibble) (s : State) : Host.Outcome State Fault Refusal :=
  .next (outputUpperNibbleOnly false (halfByte 0x3#4 lo) s)

/-- MODE4 (R83): half transfer, COMMAND, upper nibble 0x2. -/
def execMode4 (lo : Nibble) (s : State) : Host.Outcome State Fault Refusal :=
  .next (outputUpperNibbleOnly false (halfByte 0x2#4 lo) s)

/-- FSET (R84). -/
def execFset (n f : Bool) (s : State) : Host.Outcome State Fault Refusal := .next (output false (fsetByte n f) s)

/-- DOFF (R85). -/
def execDoff (s : State) : Host.Outcome State Fault Refusal := .next (output false 0x08#8 s)

/-- DON (R86). -/
def execDon (c b : Bool) (s : State) : Host.Outcome State Fault Refusal := .next (output false (donByte c b) s)

/-- ENTRY (R87). -/
def execEntry (s : State) : Host.Outcome State Fault Refusal := .next (output false 0x06#8 s)

/-- CLR (R88). -/
def execClr (s : State) : Host.Outcome State Fault Refusal := .next (output false 0x01#8 s)

/-- HOMEC (R88). -/
def execHomec (s : State) : Host.Outcome State Fault Refusal := .next (output false 0x02#8 s)

/-- SETADDR (R89). -/
def execSetaddr (a : Addr) (s : State) : Host.Outcome State Fault Refusal := .next (output false (setaddrByte a) s)

/-- DATA (R90). -/
def execData (ch : Byte) (s : State) : Host.Outcome State Fault Refusal := .next (output true ch s)

end Sys2Proof.Machine
end

