-- ==== Sys2Proof/Machine/DisplayOps.lean ====
section
/-! DEFINITION. The nine operations of the Display State Machine (41_display_ops.md), each as its rule's pseudocode. -/

namespace Sys2Proof.Machine

/-- `PUTC(ch)` (R122): nothing at the right edge, else a DATA transfer and COL + 1. -/
def opPutc (ch : Byte) (s : State) : State :=
  if atEdge s then s
  else
    let s1 := emit (.wait tData) (output true ch s)
    setCol (s1.col + 1) s1

/-- `k` times `PUTC(0x20)`: the loops of NL and TAB (R132, R134). -/
def padSpaces : Nat → State → State
  | 0, s => s
  | k + 1, s => padSpaces k (opPutc space s)

/-- `CLEAR` (R124). -/
def opClear (s : State) : State := setCol 0 (setRow 0 (cmd 0x01#8 tLong s))

/-- `HOME` (R126). -/
def opHome (s : State) : State := setCol 0 (setRow 0 (cmd 0x02#8 tLong s))

/-- Steps 1 to 4 of RESET: the wake writes and the mode switch, as half transfers (R128, R129 b). Only the interface width
4 exists, so the mode-switch byte is a constant (R83). -/
def resetWake (s : State) : State :=
  halfCmd 0x20#8 s.timing.tShort (halfCmd 0x30#8 s.timing.tWake3 (halfCmd 0x30#8 tWake2 (halfCmd 0x30#8 tWake1 s)))

/-- Steps 5 to 8 of RESET: function set, display off, display on, entry mode (R128). -/
def resetConfigure (s : State) : State :=
  cmd 0x06#8 s.timing.tShort (cmd (donOf s.cfg) s.timing.tShort (cmd 0x08#8 s.timing.tShort
    (cmd (fsetOf s.cfg) s.timing.tShort s)))

/-- `RESET` (R128): the ten steps; the last is a call of CLEAR (R129 c). -/
def opReset (s : State) : State := opClear (setInit (resetConfigure (resetWake s)))

/-- `CR` (R130). -/
def opCr (s : State) : State := reposition (setCol 0 s)

/-- `NL` (R132): the loop runs `COLS - COL` times, COL as on entry. -/
def opNl (s : State) : State :=
  let s1 := padSpaces (s.cfg.cols - s.col) s
  if notLastRow s1 then reposition (setCol 0 (setRow (s1.row + 1) s1)) else s1

/-- `TAB` (R134). -/
def opTab (s : State) : State := padSpaces (tabWidth s.cfg.cols s.col) s

/-- `k` cycles of FLASH: display off, wait, display on, short wait (R136). -/
def flashTimes : Nat → State → State
  | 0, s => s
  | k + 1, s => flashTimes k (cmd (donOf s.cfg) s.timing.tShort (cmd 0x08#8 tFlash s))

/-- `FLASH` (R136). -/
def opFlash (s : State) : State := flashTimes flashCycles s

/-- `BKSP` (R138): left, a space over the cell, left again; FLASH at column 0. -/
def opBksp (s : State) : State :=
  if pastLeft s then
    let s1 := opPutc space (reposition (setCol (s.col - 1) s))
    reposition (setCol (s1.col - 1) s1)
  else opFlash s

end Sys2Proof.Machine
end

