-- ==== Sys2Proof/Machine/Interpreter.lean ====
section
/-! DEFINITION. The meanings of the twelve input instructions (42_input_interpreter.md), each as its rule's pseudocode. No
step can fail, fault or block (R160). -/

namespace Sys2Proof.Machine

/-- ESC (R161): set escape-pending, consume, emit nothing. -/
def execEsc (s : State) : Host.Outcome State Fault Refusal := .next (advancePc (setEsc true s))

/-- ESC_R (R162): ESC is cleared, then RESET. -/
def execEscR (s : State) : Host.Outcome State Fault Refusal := .next (advancePc (opReset (setEsc false s)))

/-- ESC_H (R163): ESC is cleared, then HOME. -/
def execEscH (s : State) : Host.Outcome State Fault Refusal := .next (advancePc (opHome (setEsc false s)))

/-- ESC_OTHER (R164): the byte is discarded and ESC cleared; which byte it is does not matter. -/
def execEscOther (_b : Byte) (s : State) : Host.Outcome State Fault Refusal := .next (advancePc (setEsc false s))

/-- NL (R165). -/
def execNl (s : State) : Host.Outcome State Fault Refusal := .next (advancePc (opNl s))

/-- CR (R166). -/
def execCr (s : State) : Host.Outcome State Fault Refusal := .next (advancePc (opCr s))

/-- TAB (R167). -/
def execTab (s : State) : Host.Outcome State Fault Refusal := .next (advancePc (opTab s))

/-- BEL (R168). -/
def execBel (s : State) : Host.Outcome State Fault Refusal := .next (advancePc (opFlash s))

/-- BS (R169). -/
def execBs (s : State) : Host.Outcome State Fault Refusal := .next (advancePc (opBksp s))

/-- FF (R170). -/
def execFf (s : State) : Host.Outcome State Fault Refusal := .next (advancePc (opClear s))

/-- PUTC (R171): the byte goes out unchanged (R79). -/
def execPutc (b : Byte) (s : State) : Host.Outcome State Fault Refusal := .next (advancePc (opPutc b s))

/-- DROP (R172): the byte is consumed and nothing else happens; which byte it is does not matter. -/
def execDrop (_b : Byte) (s : State) : Host.Outcome State Fault Refusal := .next (advancePc s)

end Sys2Proof.Machine
end

