-- ==== Sys2Proof/Machine/Dispatch.lean ====
section
/-! DEFINITION. The dispatch: one arm per constructor of Instr, each one call of its meaning. -/

namespace Sys2Proof.Machine

def exec (i : Instr) (s : State) : Host.Outcome State Fault Refusal :=
  match i with
  | .esc => Sys2Proof.Machine.execEsc s
  | .escR => Sys2Proof.Machine.execEscR s
  | .escH => Sys2Proof.Machine.execEscH s
  | .escOther b => Sys2Proof.Machine.execEscOther b s
  | .nl => Sys2Proof.Machine.execNl s
  | .cr => Sys2Proof.Machine.execCr s
  | .tab => Sys2Proof.Machine.execTab s
  | .bel => Sys2Proof.Machine.execBel s
  | .bs => Sys2Proof.Machine.execBs s
  | .ff => Sys2Proof.Machine.execFf s
  | .putc b => Sys2Proof.Machine.execPutc b s
  | .drop b => Sys2Proof.Machine.execDrop b s
  | .wake lo => Sys2Proof.Machine.execWake lo s
  | .mode4 lo => Sys2Proof.Machine.execMode4 lo s
  | .fset n f => Sys2Proof.Machine.execFset n f s
  | .doff => Sys2Proof.Machine.execDoff s
  | .don c b => Sys2Proof.Machine.execDon c b s
  | .entry => Sys2Proof.Machine.execEntry s
  | .clr => Sys2Proof.Machine.execClr s
  | .homec => Sys2Proof.Machine.execHomec s
  | .setaddr a => Sys2Proof.Machine.execSetaddr a s
  | .data ch => Sys2Proof.Machine.execData ch s

end Sys2Proof.Machine
end

