-- ==== Sys2Proof/Machine/Step.lean ====
section
/-! DEFINITION. The step of the machine: the engine's whole reaction to one input byte (42_input_interpreter.md R160). -/

namespace Sys2Proof.Machine

/-- Take the next byte and run the instruction it is, to completion; with no byte offered the engine is idle and holds all
its state (R8, R24, R160, R205). -/
def step (s : State) : Host.Outcome State Fault Refusal :=
  match fetchInstr s with
  | .refuse r => .refused r
  | .idle => .next s
  | .run i => exec i s

/-- `s` with the input word `w` = {ESC, byte} as the next one to be taken: its byte stands at index PC of the stream and
the flag ESC is its bit 8, since ESC is part of the word (R70; log entry 26). How many whole bytes hold the nine bits does not matter. -/
def State.withFetchWord (s : State) (_nbits w : Nat) : State :=
  { s with esc := w.testBit 8, stream := placeByte (BitVec.ofNat 8 w) s }

end Sys2Proof.Machine
end

