-- ==== Sys2Proof/Machine/Pins.lean ====
section
/-! DEFINITION. The platform's view of the engine's ports: which lines an event sets under a pin assignment (00_scope.md
R11; 10_state.md R33, R34). No rule of the engine reads it. -/

namespace Sys2Proof.Machine

/-- A role without a line is disabled: the platform drops the event (R33). -/
def setLine (line : Option Nat) (level : Bool) : List (Nat × Bool) :=
  match line with
  | some l => [(l, level)]
  | none => []

/-- The line settings of one event. `D[i]` is wired to DB(4+i) (R34); DB0 to DB3 have no port (R7). The four data lines are
driven together: their order in the list is a DESIGN CHOICE (log entry 20). -/
def lineSets (p : PinAssignment) (ev : Event) : List (Nat × Bool) :=
  match ev with
  | .set .rs v => setLine p.rs v
  | .set .rw v => setLine p.rw v
  | .set .e v => setLine p.e v
  | .setD n =>
    setLine p.db4 (n.getLsbD 0) ++ setLine p.db5 (n.getLsbD 1) ++ setLine p.db6 (n.getLsbD 2)
      ++ setLine p.db7 (n.getLsbD 3)
  | .wait _ => []

/-- The line settings of the whole trace, in order; BL is a constant level and not part of the trace (R32). -/
def platformTrace (s : State) : List (Nat × Bool) := s.trace.flatMap (lineSets s.pins)

/-- "DB4–DB7 must be contiguous and consecutively numbered when interface width is 4" (R11). Which data-line roles may be
without a line is not stated (R11, R33): that the test holds when all four have none, and fails when only some of them have
none, is a DESIGN CHOICE (log entry 31). No step makes the test. -/
def contiguousData (p : PinAssignment) : Bool :=
  match p.db4 with
  | some l => p.db5 == some (l + 1) && p.db6 == some (l + 2) && p.db7 == some (l + 3)
  | none => p.db5.isNone && p.db6.isNone && p.db7.isNone

end Sys2Proof.Machine
end

