-- ==== Sys2Proof/WellFormed.lean ====
section
/-! DEFINITION. Which terms of `Instr` are instructions: the byte classes of 30_encoding.md R72 to R75 and the byte ranges
of R92. -/

namespace Sys2Proof

/-- The check of each constructor that carries an operand:
ESC_OTHER takes any byte but 'R' and 'H' (R73), PUTC a printable byte (R74), DROP a byte neither mapped nor printable
(R75), SETADDR an address up to 0x67 (R53, R92), DATA a printable character code (R90). -/
def WellFormed : Instr → Bool
  | .esc => true
  | .escR => true
  | .escH => true
  | .escOther b => b != 0x52#8 && b != 0x48#8
  | .nl => true
  | .cr => true
  | .tab => true
  | .bel => true
  | .bs => true
  | .ff => true
  | .putc b => isPrintable b
  | .drop b => !isMapped b && !isPrintable b
  | .wake _ => true
  | .mode4 _ => true
  | .fset _ _ => true
  | .doff => true
  | .don _ _ => true
  | .entry => true
  | .clr => true
  | .homec => true
  | .setaddr a => a.toNat ≤ 0x67
  | .data ch => isPrintable ch

end Sys2Proof
end

