-- ==== Sys2Proof/Safety.lean ====
section
/-! DEFINITION. The terms in which claims are made: the spec's shorthand for traces (00_scope.md R17), the invariants of a
safe run (10_state.md R22, R23; 20_memory.md R67), and the step function of R160, as its pseudocode and in closed form. -/

namespace Sys2Proof.Machine

/-! ### Traces -/

/-- Emit a list of events, first one first (R13). -/
def emitAll (evs : List Event) (s : State) : State := evs.foldl (fun t ev => emit ev t) s

/-- `STROBE` (R17, R100). -/
def strobeEvents : List Event := [.wait 20, .set .e true, .wait 40, .set .e false, .wait 20]

/-- `TX(r, b)`, the 14 events of `output` (R17, R102). -/
def tx (r : Bool) (b : Byte) : List Event :=
  [.set .rw false, .set .rs r, .setD (hiNibble b)] ++ strobeEvents ++ [.setD (loNibble b)] ++ strobeEvents

/-- `TXU(r, b)`, the 8 events of `outputUpperNibbleOnly` (R17, R104). -/
def txu (r : Bool) (b : Byte) : List Event :=
  [.set .rw false, .set .rs r, .setD (hiNibble b)] ++ strobeEvents

/-- `TX(0, b) W(t)` (R106). -/
def cmdEvents (b : Byte) (t : Nat) : List Event := tx false b ++ [.wait t]

/-- `TX(1, ch) W(40)` (R122). -/
def writeEvents (ch : Byte) : List Event := tx true ch ++ [.wait 40]

/-- `PAD(k)`: `TX(1, 0x20) W(40)`, `k` times (R132, R134). -/
def padEvents (k : Nat) : List Event := (List.replicate k (writeEvents 0x20#8)).flatten

/-- `TX(0, 0x80 | calc_addr(row, col)) W(1000)` (R121). -/
def repositionEvents (cols row col : Nat) : List Event := cmdEvents (setaddrByte (cellAddr cols row col)) 1000

/-- The trace of FLASH (R136). -/
def flashEvents (c : DisplayConfig) (tm : Timing) : List Event :=
  cmdEvents 0x08#8 200000 ++ cmdEvents (donOf c) tm.tShort ++ cmdEvents 0x08#8 200000 ++ cmdEvents (donOf c) tm.tShort

/-- The trace of RESET (R128). -/
def resetEvents (c : DisplayConfig) (tm : Timing) : List Event :=
  txu false 0x30#8 ++ [.wait 10000] ++ txu false 0x30#8 ++ [.wait 1000] ++ txu false 0x30#8 ++ [.wait tm.tWake3]
    ++ txu false 0x20#8 ++ [.wait tm.tShort] ++ cmdEvents (fsetOf c) tm.tShort ++ cmdEvents 0x08#8 tm.tShort
    ++ cmdEvents (donOf c) tm.tShort ++ cmdEvents 0x06#8 tm.tShort ++ cmdEvents 0x01#8 2000

/-- The sum of all waits of a trace, in microseconds. -/
def waitTotal : List Event → Nat
  | [] => 0
  | .wait t :: l => t + waitTotal l
  | .set _ _ :: l => waitTotal l
  | .setD _ :: l => waitTotal l

/-- The `Set` and `SetD` events of a trace, without its waits. -/
def setsOf (l : List Event) : List Event := l.filter fun ev => match ev with
  | .wait _ => false
  | .set _ _ => true
  | .setD _ => true

/-- The level the last `Set` of a pin gave it, or `v` where the trace has none (R31). -/
def lastLevel (p : Pin) : List Event → Bool → Bool
  | [], v => v
  | .set q w :: l, v => lastLevel p l (if q = p then w else v)
  | .setD _ :: l, v => lastLevel p l v
  | .wait _ :: l, v => lastLevel p l v

/-- The value the last `SetD` gave the data lines, or `n` where the trace has none (R31). -/
def lastData : List Event → Nibble → Nibble
  | [], n => n
  | .setD m :: l, _ => lastData l m
  | .set _ _ :: l, n => lastData l n
  | .wait _ :: l, n => lastData l n

/-- The bus discipline of a trace that starts with E at `lvl` and ends with E low: events on E alternate; RW is only ever
set low; RS, RW and D are set only while E is low; every wait is positive (R13, R91, R101, R108). -/
def busDisciplined : Bool → List Event → Bool
  | lvl, [] => !lvl
  | lvl, .set .e v :: l => (v != lvl) && busDisciplined v l
  | lvl, .set .rw v :: l => !v && !lvl && busDisciplined lvl l
  | lvl, .set .rs _ :: l => !lvl && busDisciplined lvl l
  | lvl, .setD _ :: l => !lvl && busDisciplined lvl l
  | lvl, .wait t :: l => decide (0 < t) && busDisciplined lvl l

/-- The events of one bus transfer instruction (R102, R104). -/
def transferEvents (i : Instr) : List Event :=
  if formatOf i = .busHalf then txu (topBitOf i) (byteOf i) else tx (topBitOf i) (byteOf i)

/-- A bus transfer the engine may make, and the wait after it: a well-formed bus instruction (R92) and a positive wait. -/
def legalTransfer (x : Instr × Nat) : Bool :=
  decide (formatOf x.1 ≠ .in9) && WellFormed x.1 && decide (0 < x.2)

/-- The events of a list of transfers, each followed by its wait. -/
def trafficEvents (l : List (Instr × Nat)) : List Event :=
  l.flatMap fun x => transferEvents x.1 ++ [.wait x.2]

/-! ### Invariants -/

/-- The engine's invariant: a valid configuration (R10), ROW and COL in range (R22, R23), PC within the stream (R24), BL at
its configured level (R32). -/
abbrev EngineInv (s : State) : Prop :=
  validConfig s.cfg = true ∧ s.row < s.cfg.lines ∧ s.col ≤ s.cfg.cols ∧ s.pc ≤ s.stream.length ∧ s.bl = s.cfg.blInit

/-- The display takes bytes as two nibbles and holds none: 4-bit mode, nibble-aligned (R225). -/
abbrev Aligned (dsp : Display) : Prop := dsp.mode4 = true ∧ dsp.half = none

/-- The display is as RESET leaves it, apart from cells and address counter (R128, R225). -/
abbrev Configured (c : DisplayConfig) (dsp : Display) : Prop :=
  Aligned dsp ∧ dsp.on = true ∧ dsp.cur = c.cursor ∧ dsp.blk = c.blink ∧ dsp.n = decide (1 < c.lines)
    ∧ dsp.f = decide (c.font = .large) ∧ dsp.inc = true

/-- Engine and display are in step (R67): the display is configured, and its address counter is that of the cursor
wherever the cursor is not pinned. -/
abbrev Synced (s : State) : Prop :=
  EngineInv s ∧ Configured s.cfg s.display
    ∧ (s.col < s.cfg.cols → s.display.ac = cellAddr s.cfg.cols s.row s.col)

/-- What the cell at a visible position holds. -/
def screen (s : State) (r c : Nat) : Option Byte := cell s.display (cellAddr s.cfg.cols r c)

/-- A visible position of a configuration (R54). -/
abbrev Visible (cfg : DisplayConfig) (r c : Nat) : Prop := r < cfg.lines ∧ c < cfg.cols

/-- What the cell at the visible position `(r, c)` holds after an input instruction taken in a synchronised state (R67,
R237): PUTC stores at the cursor, NL blanks the rest of the row, TAB the cells it crosses, BS one cell, FF and ESC_R
everything, the others nothing. -/
def expectedCell (i : Instr) (s : State) (r c : Nat) : Option Byte :=
  match i with
  | .putc ch => if r = s.row ∧ c = s.col then some ch else screen s r c
  | .nl => if r = s.row ∧ s.col ≤ c then some 0x20#8 else screen s r c
  | .tab => if r = s.row ∧ s.col ≤ c ∧ c < s.col + (8 - s.col % 8) then some 0x20#8 else screen s r c
  | .bs => if r = s.row ∧ c + 1 = s.col then some 0x20#8 else screen s r c
  | .ff => some 0x20#8
  | .escR => some 0x20#8
  | .esc => screen s r c
  | .escH => screen s r c
  | .escOther _ => screen s r c
  | .cr => screen s r c
  | .bel => screen s r c
  | .drop _ => screen s r c
  | .wake _ => screen s r c
  | .mode4 _ => screen s r c
  | .fset _ _ => screen s r c
  | .doff => screen s r c
  | .don _ _ => screen s r c
  | .entry => screen s r c
  | .clr => screen s r c
  | .homec => screen s r c
  | .setaddr _ => screen s r c
  | .data _ => screen s r c

/-! ### The step function of R160 -/

/-- What the input instructions compute with: ROW, COL, ESC, INIT (R13: the end state of a run). -/
structure Cursor where
  row  : Nat
  col  : Nat
  esc  : Bool
  init : Bool
  deriving DecidableEq, Repr

/-- The cursor of a state. -/
def cursorOf (s : State) : Cursor := { row := s.row, col := s.col, esc := s.esc, init := s.init }

/-- `s` with the cursor `c` and the index PC at `pc`. -/
def withCursor (c : Cursor) (pc : Nat) (s : State) : State :=
  { s with row := c.row, col := c.col, esc := c.esc, init := c.init, pc := pc }

/-- `step(b)`, the pseudocode of R160 line by line, over the display operations. -/
def stepByte (b : Byte) (s : State) : State :=
  advancePc
    (if s.esc then
      if b = 0x52#8 then opReset (setEsc false s)
      else if b = 0x48#8 then opHome (setEsc false s)
      else setEsc false s
    else if b = 0x1B#8 then setEsc true s
    else if b = 0x0A#8 then opNl s
    else if b = 0x0D#8 then opCr s
    else if b = 0x09#8 then opTab s
    else if b = 0x07#8 then opFlash s
    else if b = 0x08#8 then opBksp s
    else if b = 0x0C#8 then opClear s
    else if 0x20 ≤ b.toNat ∧ b.toNat ≤ 0x7E then opPutc b s
    else s)

/-- What one input byte does to the cursor, and the events it emits, with no loop and no transmitter: R160 with the display
operations' rules R122 to R138 in closed form. -/
def react (cfg : DisplayConfig) (tm : Timing) (c : Cursor) (b : Byte) : Cursor × List Event :=
  if c.esc then
    if b = 0x52#8 then ({ row := 0, col := 0, esc := false, init := true }, resetEvents cfg tm)
    else if b = 0x48#8 then ({ c with row := 0, col := 0, esc := false }, cmdEvents 0x02#8 2000)
    else ({ c with esc := false }, [])
  else if b = 0x1B#8 then ({ c with esc := true }, [])
  else if b = 0x0A#8 then
    if c.row + 1 < cfg.lines then
      ({ c with row := c.row + 1, col := 0 }, padEvents (cfg.cols - c.col) ++ repositionEvents cfg.cols (c.row + 1) 0)
    else ({ c with col := cfg.cols }, padEvents (cfg.cols - c.col))
  else if b = 0x0D#8 then ({ c with col := 0 }, repositionEvents cfg.cols c.row 0)
  else if b = 0x09#8 then
    ({ c with col := min cfg.cols (c.col + (8 - c.col % 8)) }, padEvents (min (8 - c.col % 8) (cfg.cols - c.col)))
  else if b = 0x07#8 then (c, flashEvents cfg tm)
  else if b = 0x08#8 then
    if 0 < c.col then
      ({ c with col := c.col - 1 },
        repositionEvents cfg.cols c.row (c.col - 1) ++ writeEvents 0x20#8 ++ repositionEvents cfg.cols c.row (c.col - 1))
    else (c, flashEvents cfg tm)
  else if b = 0x0C#8 then ({ c with row := 0, col := 0 }, cmdEvents 0x01#8 2000)
  else if 0x20 ≤ b.toNat ∧ b.toNat ≤ 0x7E then
    if c.col = cfg.cols then (c, []) else ({ c with col := c.col + 1 }, writeEvents b)
  else (c, [])

/-- A run over a byte list: the reactions in order, their events concatenated (R160). -/
def reactAll (cfg : DisplayConfig) (tm : Timing) : Cursor → List Byte → Cursor × List Event
  | c, [] => (c, [])
  | c, b :: bs =>
    let (c1, e1) := react cfg tm c b
    let (c2, e2) := reactAll cfg tm c1 bs
    (c2, e1 ++ e2)

end Sys2Proof.Machine
end

