-- ==== Sys2Proof/Certificates/Slice0/Obligations.lean ====
section
/-! DEFINITION. The statements for the provers, each from the spec's rules; OBLIGATIONS.json says which. -/

open Sys2Proof Sys2Proof.Machine

/-! ### Encoding -/

/-- Decoding the word of a well-formed instruction, in its format, gives the instruction back (30_encoding.md sections 1
and 6). -/
def Obligations.DecodeOfEncodeIsIdentity : Prop :=
  ∀ i : Instr, WellFormed i = true → decode (formatOf i) (encode i) = .ok i

/-- The other direction: whatever the decoder reads from a word, in any format, encodes to that word and has that format,
and an input instruction it reads is well formed. -/
def Obligations.EncodeOfDecodeIsIdentity : Prop :=
  ∀ (f : Format) (w : Word9) (i : Instr), decode f w = .ok i →
    formatOf i = f ∧ encode i = w ∧ (f = .in9 → WellFormed i = true)

/-- Every input word decodes: no input byte is illegal (30_encoding.md section 2). A full transfer is refused exactly when its
register type is COMMAND and its byte is none of 0x01, 0x02, 0x06, 0x08, 0x0C to 0x0F, 0x20, 0x24, 0x28, 0x2C and 0x80 to
0xFF; a half transfer exactly when it is not a COMMAND with upper nibble 2 or 3. What the engine sends is less (section 7:
set-address 0x80 to 0xE7, data 0x20 to 0x7E): the decoder takes the set-address bytes 0xE8 to 0xFF and every data byte, as
the table's rows SETADDR and DATA do, and leaves the ranges to `WellFormed`; that it follows the rows there is the model's
choice (log entry 12). The command bytes are general knowledge (log entry 6). -/
def Obligations.OnlyUnsentBusWordsAreRejected : Prop :=
  (∀ w : Word9, ∃ i, decode .in9 w = .ok i) ∧
  (∀ b : Byte, ∃ i, decode .busFull (word9 true b) = .ok i) ∧
  (∀ b : Byte, (∃ i, decode .busFull (word9 false b) = .ok i) ↔
    b ∈ [0x01#8, 0x02#8, 0x06#8, 0x08#8, 0x0C#8, 0x0D#8, 0x0E#8, 0x0F#8, 0x20#8, 0x24#8, 0x28#8, 0x2C#8] ∨ 0x80 ≤ b.toNat) ∧
  (∀ (r : Bool) (b : Byte), (∃ i, decode .busHalf (word9 r b) = .ok i) ↔
    r = false ∧ (b.extractLsb' 4 4 = 0x2#4 ∨ b.extractLsb' 4 4 = 0x3#4))

/-- Words written out bit by bit from spec/opcode_table.json, one for every instruction, decode to the instructions they
stand for. The command bytes in the bus words are general knowledge (log entry 6). -/
def Obligations.WrittenOutWordsDecode : Prop :=
  decode .in9 0b000011011#9 = .ok .esc ∧ decode .in9 0b101010010#9 = .ok .escR ∧
  decode .in9 0b101001000#9 = .ok .escH ∧ decode .in9 0b101110010#9 = .ok (.escOther 0x72#8) ∧
  decode .in9 0b000001010#9 = .ok .nl ∧ decode .in9 0b000001101#9 = .ok .cr ∧ decode .in9 0b000001001#9 = .ok .tab ∧
  decode .in9 0b000000111#9 = .ok .bel ∧ decode .in9 0b000001000#9 = .ok .bs ∧ decode .in9 0b000001100#9 = .ok .ff ∧
  decode .in9 0b001010010#9 = .ok (.putc 0x52#8) ∧ decode .in9 0b001111111#9 = .ok (.drop 0x7F#8) ∧
  decode .busHalf 0b000110000#9 = .ok (.wake 0#4) ∧ decode .busHalf 0b000100000#9 = .ok (.mode4 0#4) ∧
  decode .busFull 0b000101000#9 = .ok (.fset true false) ∧ decode .busFull 0b000001000#9 = .ok .doff ∧
  decode .busFull 0b000001110#9 = .ok (.don true false) ∧ decode .busFull 0b000000110#9 = .ok .entry ∧
  decode .busFull 0b000000001#9 = .ok .clr ∧ decode .busFull 0b000000010#9 = .ok .homec ∧
  decode .busFull 0b011000000#9 = .ok (.setaddr 0x40#7) ∧ decode .busFull 0b101000001#9 = .ok (.data 0x41#8)

/-- The bytes not mapped and not printable under `ESC = 0` are those of the DROP class, range by range (30_encoding.md
section 1). -/
def Obligations.DropClassIsTheUnmappedBytes : Prop :=
  ∀ b : Byte, decodeInput false b = .drop b ↔
    (b.toNat ≤ 0x06 ∨ b.toNat = 0x0B ∨ (0x0E ≤ b.toNat ∧ b.toNat ≤ 0x1A) ∨ (0x1C ≤ b.toNat ∧ b.toNat ≤ 0x1F) ∨
      b.toNat = 0x7F ∨ 0x80 ≤ b.toNat)

/-! ### The step -/

/-- "the instruction executed at a step is the input byte at index `PC`, decoded under the current `ESC` flag" (R24, whose
index PC is the spec's decision; that State holds the stream is the model's, log entry 13). -/
def Obligations.StepRunsTheDecodedByte : Prop :=
  ∀ (s : State) (b : Byte), validConfig s.cfg = true → s.stream[s.pc]? = some b →
    step s = exec (decodeInput s.esc b) s

/-- With no byte offered the engine is idle with all state held (R205, R24); that its step is then a next state is the
model's choice (log entry 13). -/
def Obligations.IdleStepHoldsTheState : Prop :=
  ∀ s : State, validConfig s.cfg = true → s.stream.length ≤ s.pc → step s = .next s

/-- A step never faults (R190), and it answers a next state exactly when the configuration is valid; with an invalid one it
is refused, for no engine is started (R193); that the fetch refuses is the model's choice (log entry 16). -/
def Obligations.StepRefusesOnlyInvalidConfig : Prop :=
  ∀ s : State, (∀ f, step s ≠ .fault f) ∧ ((∃ t, step s = .next t) ↔ validConfig s.cfg = true) ∧
    (step s = .refused .invalidConfig ↔ validConfig s.cfg = false)

/-- Which configurations are accepted, and that the engine takes no step with any other (R10). -/
def Obligations.ConfigurationIsAcceptedExactly : Prop :=
  (∀ c : DisplayConfig, validConfig c = true ↔
    (c.lines ∈ [1, 2, 4] ∧ 0 < c.cols ∧ c.lines * c.cols ≤ 80 ∧ c.ifWidth = 4)) ∧
  ∀ s : State, (∃ t, step s = .next t) → validConfig s.cfg = true

/-- `step(b)` is the pseudocode of R160 over the display operations; a run over the bytes offered is the steps in order, and
its trace is the concatenation of their traces (R160). -/
def Obligations.StepFollowsThePseudocode : Prop :=
  ∀ s : State, validConfig s.cfg = true →
    (∀ b, s.stream[s.pc]? = some b → step s = .next (stepByte b s)) ∧
    (∀ b, (stepByte b s).trace = s.trace ++ (stepByte b { s with trace := [] }).trace) ∧
    (∀ k, s.pc + k ≤ s.stream.length → Sys2Proof.core.run k s =
      .next (((s.stream.drop s.pc).take k).foldl (fun (t : State) (b : Byte) => stepByte b t) s : State))

/-- No input word is illegal. A byte without a mapping is consumed and ignored: it changes PC and, under `ESC = 1`, clears
ESC; it emits no event (R76). -/
def Obligations.UnmappedBytesAreIgnored : Prop :=
  (∀ (e : Bool) (b : Byte), ∃ i, decode .in9 (word9 e b) = .ok i ∧ formatOf i = .in9) ∧
  ∀ (s : State) (b : Byte),
    (decodeInput s.esc b = .drop b → exec (decodeInput s.esc b) s = .next { s with pc := s.pc + 1 }) ∧
    (decodeInput s.esc b = .escOther b →
      exec (decodeInput s.esc b) s = .next { s with esc := false, pc := s.pc + 1 })

/-- `withFetchWord` places the word the table decoder reads, and the very next step runs it; that placing sets ESC is the
model's choice (log entry 26). -/
def Obligations.PlacedWordIsFetchedAndRun : Prop :=
  ∀ (s : State) (n w : Nat), validConfig s.cfg = true → w < 512 →
    ∃ i, decodeTableWord n w = some i ∧ step (s.withFetchWord n w) = exec i (s.withFetchWord n w)

/-- What hardware reset leaves (R38): the cursor at the origin, both flags clear, PC at 0, BL at BL_INIT, an empty trace;
for the powered-on machine and for an engine whose display kept its power (R220, R224: the display is left as it was). ESC
and INIT at 0 are decisions D6 and D7 of the spec; the display's 8-bit mode is its general knowledge (log entry 3). -/
def Obligations.HardwareResetValues : Prop :=
  (∀ (c : DisplayConfig) (bs : List Byte) (s : State),
    let t := hardwareReset c bs s
    t.row = 0 ∧ t.col = 0 ∧ t.esc = false ∧ t.init = false ∧ t.pc = 0 ∧ t.bl = c.blInit ∧ t.trace = [] ∧
      t.cfg = c ∧ t.display = s.display) ∧
  (State.reset.row = 0 ∧ State.reset.col = 0 ∧ State.reset.esc = false ∧ State.reset.init = false ∧
    State.reset.pc = 0 ∧ State.reset.bl = State.reset.cfg.blInit ∧ State.reset.trace = [] ∧
    State.reset.display.mode4 = false)

/-! ### What each input instruction does -/

/-- The prefix byte sets the flag, any byte but 'R' and 'H' after it clears the flag; each consumes its byte, emits nothing
and changes nothing else at all (R161, R164). -/
def Obligations.EscapePrefixOnlyMovesTheFlag : Prop :=
  decodeInput false 0x1B#8 = .esc ∧ (∀ b : Byte, b ≠ 0x52#8 → b ≠ 0x48#8 → decodeInput true b = .escOther b) ∧
  ∀ (s : State) (b : Byte),
    exec .esc s = .next { s with esc := true, pc := s.pc + 1 } ∧
    exec (.escOther b) s = .next { s with esc := false, pc := s.pc + 1 }

/-- DROP consumes its byte and changes nothing else at all, for every byte of its class. That the class begins above 0x7E
is decision D10 of the spec, the class itself an inference of it (30_encoding.md section 1). -/
def Obligations.DropOnlyConsumes : Prop :=
  ∀ (s : State) (b : Byte), exec (.drop b) s = .next { s with pc := s.pc + 1 }

/-- PUTC (R123): at the right edge nothing but the byte consumed; elsewhere `TX(1, ch) W(40)` and COL + 1, so that from
column `COLS - 1` the cursor becomes pinned. No set-address command is sent, whatever the byte. Nothing else changes but
what those events change (see `EventsTouchOnlyPinsTraceAndDisplay`). -/
def Obligations.PutcWritesUnlessPinned : Prop :=
  ∀ (s : State) (ch : Byte),
    (s.col = s.cfg.cols → opPutc ch s = s ∧ exec (.putc ch) s = .next { s with pc := s.pc + 1 }) ∧
    (s.col ≠ s.cfg.cols → opPutc ch s = { emitAll (tx true ch ++ [.wait 40]) s with col := s.col + 1 } ∧
      exec (.putc ch) s = .next { emitAll (tx true ch ++ [.wait 40]) s with col := s.col + 1, pc := s.pc + 1 }) ∧
    (s.col + 1 = s.cfg.cols → (opPutc ch s).col = s.cfg.cols)

/-- FF is CLEAR (R124, R170): `TX(0, 0x01) W(2000)` and the cursor at the origin, from every state. The
command byte is general knowledge (log entry 6), as it is in the statements below. -/
def Obligations.FormFeedClearsAndHomes : Prop :=
  ∀ s : State, exec .ff s =
    .next { emitAll (cmdEvents 0x01#8 2000) s with row := 0, col := 0, pc := s.pc + 1 }

/-- ESC_H is HOME (R126, R163): `TX(0, 0x02) W(2000)`, the cursor at the origin, ESC clear, from every state. -/
def Obligations.EscHReturnsHome : Prop :=
  ∀ s : State, exec .escH s =
    .next { emitAll (cmdEvents 0x02#8 2000) s with row := 0, col := 0, esc := false, pc := s.pc + 1 }

/-- ESC_R is RESET (41_display_ops.md section 5): the 111 events of the ten steps, the same from every state, the cursor at
the origin, INIT set, ESC clear. The waits not in the source are the parameters of `s.timing`; that they and the command
bytes have these values are decisions D2 and D3 of the spec. -/
def Obligations.EscRRunsTheResetSequence : Prop :=
  ∀ s : State, (resetEvents s.cfg s.timing).length = 111 ∧ exec .escR s =
    .next { emitAll (resetEvents s.cfg s.timing) s with
      row := 0, col := 0, esc := false, init := true, pc := s.pc + 1 }

/-- CR (R130, R166): COL to 0 and the set-address command of the row's start, also when COL is 0 or pinned. -/
def Obligations.CarriageReturnRepositions : Prop :=
  ∀ s : State, exec .cr s =
    .next { emitAll (repositionEvents s.cfg.cols s.row 0) s with col := 0, pc := s.pc + 1 }

/-- NL (R132, R165): the rest of the row is padded with spaces; on a row that is not the last, the next row and column 0
with the set-address command; on the last row the cursor is pinned and no command is sent (R133 a, b, c). -/
def Obligations.NewlinePadsThenAdvances : Prop :=
  ∀ s : State, s.col ≤ s.cfg.cols →
    (s.row + 1 < s.cfg.lines → exec .nl s =
      .next { emitAll (padEvents (s.cfg.cols - s.col) ++ repositionEvents s.cfg.cols (s.row + 1) 0) s with
        row := s.row + 1, col := 0, pc := s.pc + 1 }) ∧
    (s.cfg.lines ≤ s.row + 1 → exec .nl s =
      .next { emitAll (padEvents (s.cfg.cols - s.col)) s with col := s.cfg.cols, pc := s.pc + 1 })

/-- TAB (R134, R167): "TAB from column c advances to `min(columns, c + (8 - c%8))`", as that many spaces, each 15 events and
200 microseconds; the loop of `8 - c%8` turns does the same, because PUTC does nothing once COL is COLS. -/
def Obligations.TabAdvancesToTheNextStop : Prop :=
  decodeInput false 0x09#8 = .tab ∧
  (∀ k, (padEvents k).length = 15 * k ∧ waitTotal (padEvents k) = 200 * k) ∧
  ∀ s : State, s.col ≤ s.cfg.cols →
    exec .tab s =
      .next { emitAll (padEvents (min (8 - s.col % 8) (s.cfg.cols - s.col))) s with
        col := min s.cfg.cols (s.col + (8 - s.col % 8)), pc := s.pc + 1 } ∧
    exec .tab s = .next (advancePc (padSpaces (8 - s.col % 8) s))

/-- BEL is FLASH (41_display_ops.md section 9): off and on twice; the cursor and both flags stay. The event-by-event
sequence is decision D4 of the spec. -/
def Obligations.BellFlashesTwice : Prop :=
  ∀ s : State, exec .bel s = .next { emitAll (flashEvents s.cfg s.timing) s with pc := s.pc + 1 }

/-- BS is BKSP (41_display_ops.md section 10): past column 0 the set-address command of the cell to the left, a space, the
same command again, COL one less; at column 0 exactly what BEL does. How the cursor moves left is decision D5 of the
spec. -/
def Obligations.BackspaceErasesOrFlashes : Prop :=
  ∀ s : State,
    (0 < s.col → s.col ≤ s.cfg.cols → exec .bs s =
      .next { emitAll (repositionEvents s.cfg.cols s.row (s.col - 1) ++ writeEvents 0x20#8
          ++ repositionEvents s.cfg.cols s.row (s.col - 1)) s with
        col := s.col - 1, pc := s.pc + 1 }) ∧
    (s.col = 0 → exec .bs s = exec .bel s ∧
      exec .bs s = .next { emitAll (flashEvents s.cfg s.timing) s with pc := s.pc + 1 })

/-! ### What each bus transfer does -/

/-- `strobe` (R100): it is its five events, 80 microseconds of waits; E is low at the end, and RS, RW, D, the cursor, both
flags and PC are as they were. -/
def Obligations.StrobeIsFiveEvents : Prop :=
  ∀ s : State,
    let l : List Event := [.wait 20, .set .e true, .wait 40, .set .e false, .wait 20]
    l.length = 5 ∧ waitTotal l = 80 ∧ strobe s = emitAll l s ∧ (strobe s).trace = s.trace ++ l ∧
    (strobe s).e = false ∧ (strobe s).rs = s.rs ∧ (strobe s).rw = s.rw ∧ (strobe s).d = s.d ∧
    cursorOf (strobe s) = cursorOf s ∧ (strobe s).pc = s.pc

/-- `output` (R102): its fourteen events, 160 microseconds of waits, what the latches hold at the end, and that the cursor
and the flags stay. -/
def Obligations.OutputIsFourteenEvents : Prop :=
  ∀ (s : State) (r : Bool) (b : Byte),
    let l : List Event := [.set .rw false, .set .rs r, .setD (b.extractLsb' 4 4), .wait 20, .set .e true, .wait 40,
      .set .e false, .wait 20, .setD (b.extractLsb' 0 4), .wait 20, .set .e true, .wait 40, .set .e false, .wait 20]
    l.length = 14 ∧ waitTotal l = 160 ∧ (output r b s).trace = s.trace ++ l ∧ output r b s = emitAll l s ∧
    (output r b s).rw = false ∧ (output r b s).rs = r ∧ (output r b s).d = b.extractLsb' 0 4 ∧
    (output r b s).e = false ∧ cursorOf (output r b s) = cursorOf s

/-- `outputUpperNibbleOnly` (R104): its eight events, 80 microseconds of waits, what the latches hold at the end, and that the
low nibble has no effect at all. -/
def Obligations.UpperNibbleOutputIsEightEvents : Prop :=
  ∀ (s : State) (r : Bool) (b : Byte),
    let l : List Event := [.set .rw false, .set .rs r, .setD (b.extractLsb' 4 4), .wait 20, .set .e true, .wait 40,
      .set .e false, .wait 20]
    l.length = 8 ∧ waitTotal l = 80 ∧ outputUpperNibbleOnly r b s = emitAll l s ∧
    (outputUpperNibbleOnly r b s).trace = s.trace ++ l ∧
    (outputUpperNibbleOnly r b s).rw = false ∧ (outputUpperNibbleOnly r b s).rs = r ∧
    (outputUpperNibbleOnly r b s).d = b.extractLsb' 4 4 ∧ (outputUpperNibbleOnly r b s).e = false ∧
    ∀ b' : Byte, b'.extractLsb' 4 4 = b.extractLsb' 4 4 → outputUpperNibbleOnly r b' s = outputUpperNibbleOnly r b s

/-- Each bus transfer instruction completes: it is the transfer of its register type and byte (30_encoding.md sections 6 and
7), and changes nothing else but what its events change. The bytes are general knowledge (log entry 6); running a transfer
as an instruction is the model's choice (log entry 12). -/
def Obligations.BusTransfersAreTheirEvents : Prop :=
  ∀ (s : State) (x y : Bool) (lo : Nibble) (a : Addr) (ch : Byte),
    exec (.wake lo) s = .next (emitAll (txu false 0x30#8) s) ∧
    exec (.mode4 lo) s = .next (emitAll (txu false 0x20#8) s) ∧
    exec (.fset x y) s = .next (emitAll (tx false (fsetByte x y)) s) ∧
    exec .doff s = .next (emitAll (tx false 0x08#8) s) ∧
    exec (.don x y) s = .next (emitAll (tx false (donByte x y)) s) ∧
    exec .entry s = .next (emitAll (tx false 0x06#8) s) ∧
    exec .clr s = .next (emitAll (tx false 0x01#8) s) ∧
    exec .homec s = .next (emitAll (tx false 0x02#8) s) ∧
    exec (.setaddr a) s = .next (emitAll (tx false (setaddrByte a)) s) ∧
    exec (.data ch) s = .next (emitAll (tx true ch) s)

/-- The bytes of the transfers whose bits come from the configuration or the cursor (30_encoding.md section 7; general
knowledge, decision D2 of the spec). -/
def Obligations.ConfigurableBytesHaveTheirValues : Prop :=
  (∀ c : DisplayConfig, c.lines ∈ [1, 2, 4] → fsetOf c =
    (if c.lines = 1 then (if c.font = .large then 0x24#8 else 0x20#8) else (if c.font = .large then 0x2C#8 else 0x28#8))) ∧
  (∀ c : DisplayConfig, donOf c =
    (if c.cursor then (if c.blink then 0x0F#8 else 0x0E#8) else (if c.blink then 0x0D#8 else 0x0C#8))) ∧
  (∀ a : Addr, (setaddrByte a).toNat = 0x80 + a.toNat)

/-! ### Frames -/

/-- What events touch: the trace grows by exactly them, in order (R63); RS, RW, E and D hold the last level an event gave
them (R31); the registers, BL, the configuration and the input stay. -/
def Obligations.EventsTouchOnlyPinsTraceAndDisplay : Prop :=
  ∀ (l : List Event) (s : State),
    (emitAll l s).trace = s.trace ++ l ∧
    (emitAll l s).rs = lastLevel .rs l s.rs ∧ (emitAll l s).rw = lastLevel .rw l s.rw ∧
    (emitAll l s).e = lastLevel .e l s.e ∧ (emitAll l s).d = lastData l s.d ∧
    (emitAll l s).row = s.row ∧ (emitAll l s).col = s.col ∧ (emitAll l s).pc = s.pc ∧ (emitAll l s).esc = s.esc ∧
    (emitAll l s).init = s.init ∧ (emitAll l s).bl = s.bl ∧ (emitAll l s).cfg = s.cfg ∧
    (emitAll l s).timing = s.timing ∧ (emitAll l s).pins = s.pins ∧ (emitAll l s).stream = s.stream

/-- Every instruction completes (R160, R190), and none writes the configuration, the OPEN parameters, the pin assignment,
the input or BL (R28, R32, R65); the trace only grows (R63); an input instruction adds one to PC and a bus transfer leaves
it (R24; that a bus transfer leaves PC is the model's choice, log entry 12); a bus transfer leaves the cursor and both
flags. -/
def Obligations.EveryInstructionKeepsTheControlState : Prop :=
  ∀ (i : Instr) (s : State), ∃ t, exec i s = .next t ∧
    t.cfg = s.cfg ∧ t.timing = s.timing ∧ t.pins = s.pins ∧ t.stream = s.stream ∧ t.bl = s.bl ∧
    s.trace <+: t.trace ∧ t.pc = (if formatOf i = .in9 then s.pc + 1 else s.pc) ∧
    (formatOf i ≠ .in9 → cursorOf t = cursorOf s)

/-- The instructions that store nothing leave every DDRAM cell as it was, when the display is nibble-aligned: CR, BEL,
ESC_H, BS at column 0, and PUTC, NL and TAB at the right edge, where they send no data byte; DROP, ESC and ESC_OTHER leave the whole display as it
was. The display's part is general knowledge (20_memory.md section 6), what BEL sends decision D4 of the spec (log entry
7). -/
def Obligations.NonStoringInstructionsKeepEveryCell : Prop :=
  ∀ (s : State) (b : Byte), Aligned s.display →
    (∀ i : Instr, i = .cr ∨ i = .bel ∨ i = .escH ∨ (i = .bs ∧ s.col = 0) ∨ (i = .putc b ∧ s.col = s.cfg.cols) ∨
        (i = .nl ∧ s.col = s.cfg.cols) ∨ (i = .tab ∧ s.col = s.cfg.cols) →
      ∃ t, exec i s = .next t ∧ Aligned t.display ∧ ∀ a, cell t.display a = cell s.display a) ∧
    (∀ i : Instr, i = .drop b ∨ i = .esc ∨ i = .escOther b → ∃ t, exec i s = .next t ∧ t.display = s.display)

/-! ### Invariants and whole-machine rules -/

/-- ROW and COL stay in range, with the rest of the engine's invariant, through every step (10_state.md section 2). -/
def Obligations.EngineInvariantIsKept : Prop :=
  ∀ s t : State, EngineInv s → step s = .next t → EngineInv t

/-- Hardware reset with a valid configuration establishes the engine's invariant, as does the power-on state. -/
def Obligations.EngineInvariantHoldsAtReset : Prop :=
  EngineInv State.reset ∧
    ∀ (c : DisplayConfig) (bs : List Byte) (s : State), validConfig c = true → EngineInv (hardwareReset c bs s)

/-- The step is the function of R160 in closed form: from every state of the engine's invariant, whatever the display and
the latches hold, the next state is that of `react` and nothing else changes. The event lists of `react` are those of
41_display_ops.md sections 1 to 10 with the command bytes of 30_encoding.md section 7 (general knowledge, log entry 6); the
waits of RESET, the sequence of FLASH and that of BKSP are decisions D3, D4 and D5 of the spec (log entries 5 and 7). -/
def Obligations.StepRefinesTheClosedForm : Prop :=
  ∀ (s : State) (b : Byte), EngineInv s → s.stream[s.pc]? = some b →
    step s = .next (withCursor (react s.cfg s.timing (cursorOf s) b).1 (s.pc + 1)
      (emitAll (react s.cfg s.timing (cursorOf s) b).2 s))

/-- "A run over the byte list ... is `step(b0); step(b1); ...; step(bn)` from the start state; its trace is the
concatenation of the traces of the steps" (R160): `k` steps from any state of the invariant, as far as bytes are offered,
never stop, and their end state and trace are the fold of `react`. The event lists of `react` are those of
41_display_ops.md sections 1 to 10 with the command bytes of 30_encoding.md section 7 (general knowledge, log entry 6); the
waits of RESET, the sequence of FLASH and that of BKSP are decisions D3, D4 and D5 of the spec (log entries 5 and 7); that
State holds the stream is the model's choice (log entry 13). -/
def Obligations.RunIsTheFoldOfReactions : Prop :=
  ∀ (k : Nat) (s : State), EngineInv s → s.pc + k ≤ s.stream.length →
    ∃ t, Sys2Proof.core.run k s = .next t ∧ t.pc = s.pc + k ∧ EngineInv t ∧
      cursorOf t = (reactAll s.cfg s.timing (cursorOf s) ((s.stream.drop s.pc).take k)).1 ∧
      t.trace = s.trace ++ (reactAll s.cfg s.timing (cursorOf s) ((s.stream.drop s.pc).take k)).2

/-- ESC is 1 after a step exactly when the byte was 0x1B and was taken under `ESC = 0` (42_input_interpreter.md
section 4). -/
def Obligations.EscapeFlagLivesForOneByte : Prop :=
  ∀ (s t : State) (b : Byte), validConfig s.cfg = true → s.stream[s.pc]? = some b → step s = .next t →
    (t.esc = true ↔ b = 0x1B#8 ∧ s.esc = false)

/-- ROW grows only by NL and only by one; otherwise it stays, or FF, ESC_H or ESC_R puts it to 0 (10_state.md section 2). -/
def Obligations.RowMovesOnlyByNewlineAndHome : Prop :=
  ∀ (s t : State) (b : Byte), EngineInv s → s.stream[s.pc]? = some b → step s = .next t →
    t.row = s.row ∨ (t.row = s.row + 1 ∧ decodeInput s.esc b = .nl) ∨
      (t.row = 0 ∧ decodeInput s.esc b ∈ [.ff, .escH, .escR])

/-- Once `COL = COLS` the cursor stays pinned, and no character reaches the display, until CR, NL on a row that is not the
last, BS, FF, ESC_H or ESC_R (10_state.md section 2; 70_reset_and_hazards.md section 3). -/
def Obligations.PinnedCursorStaysPinned : Prop :=
  ∀ (s t : State) (b : Byte), EngineInv s → s.col = s.cfg.cols → s.stream[s.pc]? = some b → step s = .next t →
    decodeInput s.esc b ∉ [.cr, .bs, .ff, .escH, .escR] →
    ¬ (decodeInput s.esc b = .nl ∧ s.row + 1 < s.cfg.lines) →
    t.col = s.cfg.cols ∧ t.row = s.row ∧ ∃ evs, t.trace = s.trace ++ evs ∧ Event.set .rs true ∉ evs

/-- `calc_addr` never exceeds 0x67 on the positions the engine passes, so the seven-bit field never truncates it and the
set-address byte lies in 0x80 to 0xE7 (20_memory.md section 2). -/
def Obligations.CellAddressesFitSevenBits : Prop :=
  ∀ (cfg : DisplayConfig) (r c : Nat), validConfig cfg = true → Visible cfg r c →
    calcAddr cfg.cols r c ≤ 0x67 ∧ (cellAddr cfg.cols r c).toNat = calcAddr cfg.cols r c ∧
      (setaddrByte (cellAddr cfg.cols r c)).toNat = 0x80 + calcAddr cfg.cols r c

/-- Two different visible cells never share an address (20_memory.md section 2). -/
def Obligations.VisibleCellsHaveDistinctAddresses : Prop :=
  ∀ (cfg : DisplayConfig) (r c r' c' : Nat), validConfig cfg = true → Visible cfg r c → Visible cfg r' c' →
    cellAddr cfg.cols r c = cellAddr cfg.cols r' c' → r = r' ∧ c = c'

/-- The four row cases of `calc_addr` (R51, R52), with R52's worked values. -/
def Obligations.CalcAddrRowCases : Prop :=
  (∀ cols c : Nat, calcAddr cols 0 c = c ∧ calcAddr cols 1 c = 0x40 + c ∧ calcAddr cols 2 c = cols + c ∧
    calcAddr cols 3 c = 0x40 + cols + c) ∧
  (calcAddr 16 2 0 = 0x10 ∧ calcAddr 16 3 0 = 0x50 ∧ calcAddr 20 2 0 = 0x14 ∧ calcAddr 20 3 0 = 0x54)

/-- Every instruction, input byte or bus transfer, keeps DDRAM in its canonical form (the model's, log entry 1), in every
state. -/
def Obligations.DdramStaysCanonical : Prop :=
  ∀ (i : Instr) (s t : State), Memory.wf s.display.ddram = true → exec i s = .next t →
    Memory.wf t.display.ddram = true

/-- DDRAM is canonical at reset. Both the form and the empty DDRAM list at power-on are the model's choice (log entry 1): the
spec gives DDRAM as a map from 7-bit addresses to bytes (20_memory.md sections 1 and 6), with no contents at power-on. -/
def Obligations.DdramIsCanonicalAtReset : Prop := Memory.wf State.reset.display.ddram = true

/-- The bus discipline of the trace is kept by every step: E alternates and ends low, RW is never set high, RS and D are
set only while E is low, every wait is positive (40_signal_transmitter.md section 6; 30_encoding.md section 7). -/
def Obligations.BusDisciplineIsKept : Prop :=
  ∀ s t : State, validTiming s.timing = true → busDisciplined false s.trace = true → step s = .next t →
    busDisciplined false t.trace = true ∧ validTiming t.timing = true

/-- What a step adds to the trace is a sequence of transfers the engine may make (30_encoding.md section 7), each followed by
a positive wait; every character byte in it is printable and every address at most 0x67. -/
def Obligations.EveryStepSendsOnlyLegalTransfers : Prop :=
  ∀ s t : State, EngineInv s → validTiming s.timing = true → step s = .next t →
    ∃ l : List (Instr × Nat), (∀ x ∈ l, legalTransfer x = true) ∧ t.trace = s.trace ++ trafficEvents l

/-- Every step emits a bounded number of events: a multiple of 15, or the 111 of RESET, and at most 1215
(41_display_ops.md section 12). The number of transfers in FLASH and BKSP and of waits in RESET are decisions D4, D5 and D3
of the spec (log entries 7 and 5). -/
def Obligations.EventCountsAreBounded : Prop :=
  ∀ (s t : State) (b : Byte), EngineInv s → s.stream[s.pc]? = some b → step s = .next t →
    ∃ evs, t.trace = s.trace ++ evs ∧ evs.length ≤ 1215 ∧
      (if decodeInput s.esc b = .escR then evs.length = 111 else evs.length % 15 = 0)

/-- The sums of the waits of all nine operations (70_reset_and_hazards.md section 4), for all values of the OPEN parameters.
The sums of RESET, of FLASH (and BKSP at column 0) and of BKSP rest on decisions D3, D4 and D5 of the spec (log entries 5
and 7). -/
def Obligations.WaitSumsOfTheOperations : Prop :=
  ∀ (s : State) (ch : Byte), s.col ≤ s.cfg.cols →
    (∃ t evs, exec (.putc ch) s = .next t ∧ t.trace = s.trace ++ evs ∧
      waitTotal evs = (if s.col = s.cfg.cols then 0 else 200)) ∧
    (∃ t evs, exec .ff s = .next t ∧ t.trace = s.trace ++ evs ∧ waitTotal evs = 2160) ∧
    (∃ t evs, exec .escH s = .next t ∧ t.trace = s.trace ++ evs ∧ waitTotal evs = 2160) ∧
    (∃ t evs, exec .cr s = .next t ∧ t.trace = s.trace ++ evs ∧ waitTotal evs = 1160) ∧
    (∃ t evs, exec .escR s = .next t ∧ t.trace = s.trace ++ evs ∧
      waitTotal evs = 14120 + s.timing.tWake3 + 5 * s.timing.tShort) ∧
    (∃ t evs, exec .bel s = .next t ∧ t.trace = s.trace ++ evs ∧ waitTotal evs = 400640 + 2 * s.timing.tShort) ∧
    (∃ t evs, exec .nl s = .next t ∧ t.trace = s.trace ++ evs ∧
      waitTotal evs = 200 * (s.cfg.cols - s.col) + (if s.row + 1 < s.cfg.lines then 1160 else 0)) ∧
    (∃ t evs, exec .tab s = .next t ∧ t.trace = s.trace ++ evs ∧
      waitTotal evs = 200 * min (8 - s.col % 8) (s.cfg.cols - s.col)) ∧
    (∃ t evs, exec .bs s = .next t ∧ t.trace = s.trace ++ evs ∧
      waitTotal evs = (if 0 < s.col then 2520 else 400640 + 2 * s.timing.tShort))

/-! ### What cannot be learned: the protocol is open-loop -/

/-- Nothing flows back from the display (R3, R2): with another display in front of it, the engine does exactly the same. -/
def Obligations.EngineNeverReadsTheDisplay : Prop :=
  ∀ (i : Instr) (s t : State) (dsp : Display), exec i s = .next t →
    ∃ dsp', exec i { s with display := dsp } = .next { t with display := dsp' }

/-- No rule's condition depends on a pin level (R31) or on INIT (R26): with other levels and another flag, the cursor and
the events are the same. -/
def Obligations.EngineNeverReadsPinsOrInit : Prop :=
  ∀ (i : Instr) (s t : State) (rs rw e init : Bool) (d : Nibble), exec i s = .next t →
    ∃ t', exec i { s with rs := rs, rw := rw, e := e, d := d, init := init } = .next t' ∧
      t'.trace = t.trace ∧ t'.row = t.row ∧ t'.col = t.col ∧ t'.esc = t.esc ∧ t'.pc = t.pc

/-- No functional rule depends on the OPEN parameters (R12): with other values, every register, latch and cell is the same,
and so is every `Set` and `SetD` event. -/
def Obligations.OpenParametersOnlyChangeWaits : Prop :=
  ∀ (i : Instr) (s t : State) (tm : Timing), exec i s = .next t →
    ∃ tr, exec i { s with timing := tm } = .next { t with timing := tm, trace := tr } ∧ setsOf tr = setsOf t.trace

/-! ### The attached display (general knowledge, 20_memory.md section 6) -/

/-- What an aligned display does with each full transfer (20_memory.md section 6); at the end of a row or line, and without
increment mode, the address counter is a free value (log entry 9). -/
def Obligations.AlignedDisplayObeysFullTransfers : Prop :=
  ∀ (s : State) (x y : Bool) (a : Addr) (ch : Byte), Aligned s.display →
    let k := s.display.strobes + 2
    (∃ t, exec .clr s = .next t ∧
      t.display = { s.display with ddram := t.display.ddram, ac := 0#7, inc := true, strobes := k } ∧
      ∀ c, cell t.display c = some 0x20#8) ∧
    (∃ t, exec .homec s = .next t ∧ t.display = { s.display with ac := 0#7, strobes := k }) ∧
    (∃ t, exec (.setaddr a) s = .next t ∧ t.display = { s.display with ac := a, strobes := k }) ∧
    (∃ t, exec .entry s = .next t ∧ t.display = { s.display with inc := true, strobes := k }) ∧
    (∃ t, exec .doff s = .next t ∧
      t.display = { s.display with on := false, cur := false, blk := false, strobes := k }) ∧
    (∃ t, exec (.don x y) s = .next t ∧ t.display = { s.display with on := true, cur := x, blk := y, strobes := k }) ∧
    (∃ t, exec (.fset x y) s = .next t ∧ t.display = { s.display with n := x, f := y, strobes := k }) ∧
    (∃ t, exec (.data ch) s = .next t ∧
      t.display = { s.display with ddram := t.display.ddram, ac := t.display.ac, strobes := k } ∧
      (∀ c, cell t.display c = if c = s.display.ac then some ch else cell s.display c) ∧
      (s.display.inc = true → atRowEnd s.cfg s.display.ac = false → atLineEnd s.display = false →
        t.display.ac = s.display.ac + 1#7))

/-- What a display in each interface state does with the half transfers (20_memory.md section 6; 70_reset_and_hazards.md
section 2). In 8-bit mode WAKE keeps it there and MODE4 brings it into 4-bit mode with no nibble latched, whatever the nibble
not driven is (a free value, log entry 8); cells and address counter stay. In 4-bit mode the first strobe latches the nibble;
with a nibble `hi` latched the transfer completes the command byte `{hi, 3}` or `{hi, 2}`: home, function set (which for
`hi = 3` selects 8-bit mode), set address, or, where no effect is given, a byte that leaves everything but address counter
and cells (the model's choice, log entry 10). That a completed transfer leaves no nibble latched is log entry 22. -/
def Obligations.HalfTransfersReachEveryDisplay : Prop :=
  ∀ (s : State) (lo : Nibble),
    (s.display.mode4 = false →
      (∃ t, exec (.wake lo) s = .next t ∧ t.display.mode4 = false ∧ t.display.half = none ∧
        t.display.ddram = s.display.ddram ∧ t.display.ac = s.display.ac) ∧
      (∃ t, exec (.mode4 lo) s = .next t ∧ Aligned t.display ∧ t.display.ddram = s.display.ddram ∧
        t.display.ac = s.display.ac)) ∧
    (∀ (i : Instr) (nib : Nibble), (i = .wake lo ∧ nib = 0x3#4) ∨ (i = .mode4 lo ∧ nib = 0x2#4) →
      s.display.mode4 = true →
      let k := s.display.strobes + 1
      (s.display.half = none → ∃ t, exec i s = .next t ∧
        t.display = { s.display with half := some nib, strobes := k }) ∧
      (∀ hi : Nibble, s.display.half = some hi → ∃ t, exec i s = .next t ∧
        (hi = 0x0#4 → t.display = { s.display with half := none, ac := 0#7, strobes := k }) ∧
        (hi = 0x2#4 → t.display = { s.display with half := none, n := false, f := false, strobes := k }) ∧
        (hi = 0x3#4 →
          t.display = { s.display with half := none, mode4 := false, n := false, f := false, strobes := k }) ∧
        (0x8 ≤ hi.toNat →
          t.display = { s.display with half := none, ac := (hi ++ nib).extractLsb' 0 7, strobes := k }) ∧
        (hi = 0x1#4 ∨ (0x4 ≤ hi.toNat ∧ hi.toNat ≤ 0x7) →
          t.display = { s.display with
            half := none, ac := t.display.ac, ddram := t.display.ddram, strobes := k })))

/-- RESET brings a display in ANY state (8-bit, 4-bit, holding a stray nibble) into step (70_reset_and_hazards.md section 2):
configured, address counter 0, every cell a space, with the cursor at the origin. That `every cell` means all 128 addresses
is the model's choice (log entry 24); the display model and the bytes are general knowledge (log entry 6). -/
def Obligations.EscRRecoversEveryDisplay : Prop :=
  ∀ s : State, ∃ t, exec .escR s = .next t ∧ Configured s.cfg t.display ∧ t.display.ac = 0#7 ∧
    (∀ a, cell t.display a = some 0x20#8) ∧ t.row = 0 ∧ t.col = 0

/-- Once engine and display are in step they stay in step through every input byte (20_memory.md section 6). -/
def Obligations.SynchronisationIsKept : Prop :=
  ∀ s t : State, Synced s → step s = .next t → Synced t

/-- In step, each input byte changes the visible cells exactly as the operations' rules say, and no others (20_memory.md
section 6; 70_reset_and_hazards.md section 3). -/
def Obligations.ScreenFollowsTheCursor : Prop :=
  ∀ (s t : State) (b : Byte) (r c : Nat), Synced s → s.stream[s.pc]? = some b → step s = .next t → Visible s.cfg r c →
    screen t r c = expectedCell (decodeInput s.esc b) s r c

/-- PUTC stores its byte at the display's address counter and nowhere else (41_display_ops.md section 12), which is the
cursor's cell when engine and display are in step. -/
def Obligations.PutcStoresAtTheAddressCounter : Prop :=
  ∀ (s : State) (ch : Byte), Aligned s.display → s.col ≠ s.cfg.cols →
    ∃ t, exec (.putc ch) s = .next t ∧ Aligned t.display ∧
      (∀ a, cell t.display a = if a = s.display.ac then some ch else cell s.display a) ∧
      (Synced s → s.display.ac = cellAddr s.cfg.cols s.row s.col)

/-- NL and TAB store spaces in the cells of the current row they cross, from the cursor on, and nowhere else in DDRAM
(41_display_ops.md sections 7 and 8). -/
def Obligations.PaddingStoresOnlyInTheCurrentRow : Prop :=
  ∀ s : State, Synced s →
    (∃ t, exec .nl s = .next t ∧
      (∀ c, s.col ≤ c → c < s.cfg.cols → cell t.display (cellAddr s.cfg.cols s.row c) = some 0x20#8) ∧
      (∀ a, (∀ c, s.col ≤ c → c < s.cfg.cols → a ≠ cellAddr s.cfg.cols s.row c) →
        cell t.display a = cell s.display a)) ∧
    (∃ t, exec .tab s = .next t ∧
      (∀ c, s.col ≤ c → c < min s.cfg.cols (s.col + (8 - s.col % 8)) →
        cell t.display (cellAddr s.cfg.cols s.row c) = some 0x20#8) ∧
      (∀ a, (∀ c, s.col ≤ c → c < min s.cfg.cols (s.col + (8 - s.col % 8)) → a ≠ cellAddr s.cfg.cols s.row c) →
        cell t.display a = cell s.display a))

/-- BS past column 0 stores one space, at the address its set-address command carries, and nowhere else; FF stores a space
everywhere (41_display_ops.md sections 3 and 10). BKSP's set-address commands are decision D5 of the spec (log entry 7);
that FF blanks all 128 addresses is the model's choice (log entry 24). -/
def Obligations.BackspaceAndFormFeedStore : Prop :=
  ∀ s : State, Aligned s.display →
    (0 < s.col → s.col ≤ s.cfg.cols → ∃ t, exec .bs s = .next t ∧ Aligned t.display ∧
      t.display.ac = cellAddr s.cfg.cols s.row (s.col - 1) ∧
      ∀ a, cell t.display a =
        if a = cellAddr s.cfg.cols s.row (s.col - 1) then some 0x20#8 else cell s.display a) ∧
    (∃ t, exec .ff s = .next t ∧ Aligned t.display ∧ t.display.ac = 0#7 ∧ ∀ a, cell t.display a = some 0x20#8)

/-! ### The pins -/

/-- Which platform lines an event sets (R33, R34, decisions D11 and D9 of the spec): an event of RS, RW or E sets the line of
its role to its level and nothing where the role has none; `SetD` sets, for each of DB4 to DB7 that has a line, bit 0 to 3 of
the nibble, in that order (the model's choice, log entry 20); a wait sets nothing. So with all four data lines the upper
nibble of a byte puts bit k on DBk for k from 4 to 7, and the lower nibble bits 0 to 3. -/
def Obligations.EventsReachTheirLines : Prop :=
  ∀ (p : PinAssignment) (v : Bool) (nib : Nibble) (us : Nat) (b : Byte),
    (∀ l, p.rs = some l → lineSets p (.set .rs v) = [(l, v)]) ∧ (p.rs = none → lineSets p (.set .rs v) = []) ∧
    (∀ l, p.rw = some l → lineSets p (.set .rw v) = [(l, v)]) ∧ (p.rw = none → lineSets p (.set .rw v) = []) ∧
    (∀ l, p.e = some l → lineSets p (.set .e v) = [(l, v)]) ∧ (p.e = none → lineSets p (.set .e v) = []) ∧
    lineSets p (.setD nib) =
      (p.db4.toList.map fun l => (l, nib.getLsbD 0)) ++ (p.db5.toList.map fun l => (l, nib.getLsbD 1))
        ++ (p.db6.toList.map fun l => (l, nib.getLsbD 2)) ++ (p.db7.toList.map fun l => (l, nib.getLsbD 3)) ∧
    lineSets p (.wait us) = [] ∧
    ∀ l4 l5 l6 l7 : Nat, p.db4 = some l4 → p.db5 = some l5 → p.db6 = some l6 → p.db7 = some l7 →
      lineSets p (.setD (hiNibble b)) =
        [(l4, b.getLsbD 4), (l5, b.getLsbD 5), (l6, b.getLsbD 6), (l7, b.getLsbD 7)] ∧
      lineSets p (.setD (loNibble b)) =
        [(l4, b.getLsbD 0), (l5, b.getLsbD 1), (l6, b.getLsbD 2), (l7, b.getLsbD 3)]
end

