-- ==== Sys2Proof/Laws/Memory.lean ====
section
/-! SUPPORT. The laws of DDRAM as data (Machine/Device.lean): read after write, and the canonical form that every memory
operation keeps. -/

namespace Sys2Proof.Machine

@[simp] theorem Memory.read_nil (a : Nat) : Memory.read [] a = none := rfl

/-- A read after a write to the same address gives the byte written. -/
@[simp] theorem Memory.read_write_same (m : Memory) (a : Nat) (v : Byte) :
    Memory.read (Memory.write m a v) a = some v := by
  induction m with
  | nil => simp [Memory.write, Memory.read]
  | cons c m ih =>
    obtain ⟨b, w⟩ := c
    simp only [Memory.write]
    split
    · simp [Memory.read]
    · split
      · simp [Memory.read]
      · rename_i _ hne
        simp [Memory.read, Ne.symm hne, ih]

/-- A write leaves every other address alone. -/
theorem Memory.read_write_other (m : Memory) (a a' : Nat) (v : Byte) (h : a' ≠ a) :
    Memory.read (Memory.write m a v) a' = Memory.read m a' := by
  induction m with
  | nil => simp [Memory.write, Memory.read, h.symm]
  | cons c m ih =>
    obtain ⟨b, w⟩ := c
    simp only [Memory.write]
    split
    · simp [Memory.read, h.symm]
    · split
      · rename_i _ hab
        subst hab
        simp [Memory.read, h.symm]
      · simp [Memory.read, ih]

theorem Memory.risesFrom_mono {m : Memory} {lo lo' : Nat} (h : lo' ≤ lo) (hm : Memory.risesFrom lo m = true) :
    Memory.risesFrom lo' m = true := by
  cases m with
  | nil => rfl
  | cons c m =>
    simp only [Memory.risesFrom, Bool.and_eq_true, decide_eq_true_eq] at hm ⊢
    exact ⟨⟨by omega, hm.1.2⟩, hm.2⟩

theorem Memory.risesFrom_write {m : Memory} {lo a : Nat} (v : Byte) (hlo : lo ≤ a) (ha : a < 0x80)
    (hm : Memory.risesFrom lo m = true) : Memory.risesFrom lo (Memory.write m a v) = true := by
  induction m generalizing lo with
  | nil => simp [Memory.write, Memory.risesFrom, hlo, ha]
  | cons c m ih =>
    obtain ⟨b, w⟩ := c
    simp only [Memory.risesFrom, Bool.and_eq_true, decide_eq_true_eq] at hm
    simp only [Memory.write]
    split
    · simp only [Memory.risesFrom, Bool.and_eq_true, decide_eq_true_eq]
      exact ⟨⟨hlo, ha⟩, ⟨by omega, hm.1.2⟩, hm.2⟩
    · split
      · rename_i _ hab
        subst hab
        simp only [Memory.risesFrom, Bool.and_eq_true, decide_eq_true_eq]
        exact ⟨⟨hlo, ha⟩, hm.2⟩
      · simp only [Memory.risesFrom, Bool.and_eq_true, decide_eq_true_eq]
        exact ⟨hm.1, ih (by omega) hm.2⟩

/-- A write keeps the canonical form. -/
theorem Memory.wf_write {m : Memory} {a : Nat} (v : Byte) (ha : a < 0x80) (hm : Memory.wf m = true) :
    Memory.wf (Memory.write m a v) = true :=
  Memory.risesFrom_write v (Nat.zero_le a) ha hm

theorem Memory.wf_nil : Memory.wf [] = true := rfl

theorem Memory.wf_blank : Memory.wf Memory.blank = true := by decide +kernel

/-- After a clear every address of the seven-bit space holds a space. -/
theorem Memory.read_blank (a : Addr) : Memory.read Memory.blank a.toNat = some space := by
  revert a
  decide +kernel

/-- A strobe keeps the canonical form of DDRAM, whatever the display makes of it. -/
theorem receiveStrobe_keeps_wf (cfg : DisplayConfig) (rs : Bool) (nib : Nibble) (dsp : Display)
    (h : Memory.wf dsp.ddram = true) : Memory.wf (receiveStrobe cfg rs nib dsp).ddram = true := by
  have hbyte : ∀ hi lo, Memory.wf (receiveByte cfg rs hi lo dsp).ddram = true := by
    intro hi lo
    simp only [receiveByte]
    split
    · exact Memory.wf_write _ dsp.ac.isLt h
    · simp only [receiveCommand, receiveUnlisted]
      repeat' split
      all_goals simp only [h, Memory.wf_nil, Memory.wf_blank]
  simp only [receiveStrobe]
  split
  · split
    · exact h
    · exact hbyte _ _
  · exact hbyte _ _

end Sys2Proof.Machine
end

