-- ==== Sys2Proof/Laws/State.lean ====
section
/-! SUPPORT. One lemma per field for each update of the state, true by rfl: no later proof unfolds a record update. -/

namespace Sys2Proof.Machine

/-! ### setRow -/

@[simp] theorem setRow_row (v : Nat) (s : State) : (setRow v s).row = v := rfl
@[simp] theorem setRow_col (v : Nat) (s : State) : (setRow v s).col = s.col := rfl
@[simp] theorem setRow_pc (v : Nat) (s : State) : (setRow v s).pc = s.pc := rfl
@[simp] theorem setRow_esc (v : Nat) (s : State) : (setRow v s).esc = s.esc := rfl
@[simp] theorem setRow_init (v : Nat) (s : State) : (setRow v s).init = s.init := rfl
@[simp] theorem setRow_rs (v : Nat) (s : State) : (setRow v s).rs = s.rs := rfl
@[simp] theorem setRow_rw (v : Nat) (s : State) : (setRow v s).rw = s.rw := rfl
@[simp] theorem setRow_e (v : Nat) (s : State) : (setRow v s).e = s.e := rfl
@[simp] theorem setRow_d (v : Nat) (s : State) : (setRow v s).d = s.d := rfl
@[simp] theorem setRow_bl (v : Nat) (s : State) : (setRow v s).bl = s.bl := rfl
@[simp] theorem setRow_cfg (v : Nat) (s : State) : (setRow v s).cfg = s.cfg := rfl
@[simp] theorem setRow_timing (v : Nat) (s : State) : (setRow v s).timing = s.timing := rfl
@[simp] theorem setRow_pins (v : Nat) (s : State) : (setRow v s).pins = s.pins := rfl
@[simp] theorem setRow_stream (v : Nat) (s : State) : (setRow v s).stream = s.stream := rfl
@[simp] theorem setRow_trace (v : Nat) (s : State) : (setRow v s).trace = s.trace := rfl
@[simp] theorem setRow_display (v : Nat) (s : State) : (setRow v s).display = s.display := rfl

/-! ### setCol -/

@[simp] theorem setCol_row (v : Nat) (s : State) : (setCol v s).row = s.row := rfl
@[simp] theorem setCol_col (v : Nat) (s : State) : (setCol v s).col = v := rfl
@[simp] theorem setCol_pc (v : Nat) (s : State) : (setCol v s).pc = s.pc := rfl
@[simp] theorem setCol_esc (v : Nat) (s : State) : (setCol v s).esc = s.esc := rfl
@[simp] theorem setCol_init (v : Nat) (s : State) : (setCol v s).init = s.init := rfl
@[simp] theorem setCol_rs (v : Nat) (s : State) : (setCol v s).rs = s.rs := rfl
@[simp] theorem setCol_rw (v : Nat) (s : State) : (setCol v s).rw = s.rw := rfl
@[simp] theorem setCol_e (v : Nat) (s : State) : (setCol v s).e = s.e := rfl
@[simp] theorem setCol_d (v : Nat) (s : State) : (setCol v s).d = s.d := rfl
@[simp] theorem setCol_bl (v : Nat) (s : State) : (setCol v s).bl = s.bl := rfl
@[simp] theorem setCol_cfg (v : Nat) (s : State) : (setCol v s).cfg = s.cfg := rfl
@[simp] theorem setCol_timing (v : Nat) (s : State) : (setCol v s).timing = s.timing := rfl
@[simp] theorem setCol_pins (v : Nat) (s : State) : (setCol v s).pins = s.pins := rfl
@[simp] theorem setCol_stream (v : Nat) (s : State) : (setCol v s).stream = s.stream := rfl
@[simp] theorem setCol_trace (v : Nat) (s : State) : (setCol v s).trace = s.trace := rfl
@[simp] theorem setCol_display (v : Nat) (s : State) : (setCol v s).display = s.display := rfl

/-! ### setEsc -/

@[simp] theorem setEsc_row (v : Bool) (s : State) : (setEsc v s).row = s.row := rfl
@[simp] theorem setEsc_col (v : Bool) (s : State) : (setEsc v s).col = s.col := rfl
@[simp] theorem setEsc_pc (v : Bool) (s : State) : (setEsc v s).pc = s.pc := rfl
@[simp] theorem setEsc_esc (v : Bool) (s : State) : (setEsc v s).esc = v := rfl
@[simp] theorem setEsc_init (v : Bool) (s : State) : (setEsc v s).init = s.init := rfl
@[simp] theorem setEsc_rs (v : Bool) (s : State) : (setEsc v s).rs = s.rs := rfl
@[simp] theorem setEsc_rw (v : Bool) (s : State) : (setEsc v s).rw = s.rw := rfl
@[simp] theorem setEsc_e (v : Bool) (s : State) : (setEsc v s).e = s.e := rfl
@[simp] theorem setEsc_d (v : Bool) (s : State) : (setEsc v s).d = s.d := rfl
@[simp] theorem setEsc_bl (v : Bool) (s : State) : (setEsc v s).bl = s.bl := rfl
@[simp] theorem setEsc_cfg (v : Bool) (s : State) : (setEsc v s).cfg = s.cfg := rfl
@[simp] theorem setEsc_timing (v : Bool) (s : State) : (setEsc v s).timing = s.timing := rfl
@[simp] theorem setEsc_pins (v : Bool) (s : State) : (setEsc v s).pins = s.pins := rfl
@[simp] theorem setEsc_stream (v : Bool) (s : State) : (setEsc v s).stream = s.stream := rfl
@[simp] theorem setEsc_trace (v : Bool) (s : State) : (setEsc v s).trace = s.trace := rfl
@[simp] theorem setEsc_display (v : Bool) (s : State) : (setEsc v s).display = s.display := rfl

/-! ### setInit -/

@[simp] theorem setInit_row (s : State) : (setInit s).row = s.row := rfl
@[simp] theorem setInit_col (s : State) : (setInit s).col = s.col := rfl
@[simp] theorem setInit_pc (s : State) : (setInit s).pc = s.pc := rfl
@[simp] theorem setInit_esc (s : State) : (setInit s).esc = s.esc := rfl
@[simp] theorem setInit_init (s : State) : (setInit s).init = true := rfl
@[simp] theorem setInit_rs (s : State) : (setInit s).rs = s.rs := rfl
@[simp] theorem setInit_rw (s : State) : (setInit s).rw = s.rw := rfl
@[simp] theorem setInit_e (s : State) : (setInit s).e = s.e := rfl
@[simp] theorem setInit_d (s : State) : (setInit s).d = s.d := rfl
@[simp] theorem setInit_bl (s : State) : (setInit s).bl = s.bl := rfl
@[simp] theorem setInit_cfg (s : State) : (setInit s).cfg = s.cfg := rfl
@[simp] theorem setInit_timing (s : State) : (setInit s).timing = s.timing := rfl
@[simp] theorem setInit_pins (s : State) : (setInit s).pins = s.pins := rfl
@[simp] theorem setInit_stream (s : State) : (setInit s).stream = s.stream := rfl
@[simp] theorem setInit_trace (s : State) : (setInit s).trace = s.trace := rfl
@[simp] theorem setInit_display (s : State) : (setInit s).display = s.display := rfl

/-! ### advancePc -/

@[simp] theorem advancePc_row (s : State) : (advancePc s).row = s.row := rfl
@[simp] theorem advancePc_col (s : State) : (advancePc s).col = s.col := rfl
@[simp] theorem advancePc_pc (s : State) : (advancePc s).pc = s.pc + 1 := rfl
@[simp] theorem advancePc_esc (s : State) : (advancePc s).esc = s.esc := rfl
@[simp] theorem advancePc_init (s : State) : (advancePc s).init = s.init := rfl
@[simp] theorem advancePc_rs (s : State) : (advancePc s).rs = s.rs := rfl
@[simp] theorem advancePc_rw (s : State) : (advancePc s).rw = s.rw := rfl
@[simp] theorem advancePc_e (s : State) : (advancePc s).e = s.e := rfl
@[simp] theorem advancePc_d (s : State) : (advancePc s).d = s.d := rfl
@[simp] theorem advancePc_bl (s : State) : (advancePc s).bl = s.bl := rfl
@[simp] theorem advancePc_cfg (s : State) : (advancePc s).cfg = s.cfg := rfl
@[simp] theorem advancePc_timing (s : State) : (advancePc s).timing = s.timing := rfl
@[simp] theorem advancePc_pins (s : State) : (advancePc s).pins = s.pins := rfl
@[simp] theorem advancePc_stream (s : State) : (advancePc s).stream = s.stream := rfl
@[simp] theorem advancePc_trace (s : State) : (advancePc s).trace = s.trace := rfl
@[simp] theorem advancePc_display (s : State) : (advancePc s).display = s.display := rfl

/-! ### emit: an event writes the trace and its latch, and E's falling edge reaches the display -/

@[simp] theorem emit_row (ev : Event) (s : State) : (emit ev s).row = s.row := by
  rcases ev with ⟨⟨⟩, _⟩ | _ | _ <;> rfl
@[simp] theorem emit_col (ev : Event) (s : State) : (emit ev s).col = s.col := by
  rcases ev with ⟨⟨⟩, _⟩ | _ | _ <;> rfl
@[simp] theorem emit_pc (ev : Event) (s : State) : (emit ev s).pc = s.pc := by
  rcases ev with ⟨⟨⟩, _⟩ | _ | _ <;> rfl
@[simp] theorem emit_esc (ev : Event) (s : State) : (emit ev s).esc = s.esc := by
  rcases ev with ⟨⟨⟩, _⟩ | _ | _ <;> rfl
@[simp] theorem emit_init (ev : Event) (s : State) : (emit ev s).init = s.init := by
  rcases ev with ⟨⟨⟩, _⟩ | _ | _ <;> rfl
@[simp] theorem emit_bl (ev : Event) (s : State) : (emit ev s).bl = s.bl := by
  rcases ev with ⟨⟨⟩, _⟩ | _ | _ <;> rfl
@[simp] theorem emit_cfg (ev : Event) (s : State) : (emit ev s).cfg = s.cfg := by
  rcases ev with ⟨⟨⟩, _⟩ | _ | _ <;> rfl
@[simp] theorem emit_timing (ev : Event) (s : State) : (emit ev s).timing = s.timing := by
  rcases ev with ⟨⟨⟩, _⟩ | _ | _ <;> rfl
@[simp] theorem emit_pins (ev : Event) (s : State) : (emit ev s).pins = s.pins := by
  rcases ev with ⟨⟨⟩, _⟩ | _ | _ <;> rfl
@[simp] theorem emit_stream (ev : Event) (s : State) : (emit ev s).stream = s.stream := by
  rcases ev with ⟨⟨⟩, _⟩ | _ | _ <;> rfl
@[simp] theorem emit_trace (ev : Event) (s : State) : (emit ev s).trace = s.trace ++ [ev] := by
  rcases ev with ⟨⟨⟩, _⟩ | _ | _ <;> rfl

@[simp] theorem emit_rs_rs (v : Bool) (s : State) : (emit (.set .rs v) s).rs = v := rfl
@[simp] theorem emit_rs_rw (v : Bool) (s : State) : (emit (.set .rs v) s).rw = s.rw := rfl
@[simp] theorem emit_rs_e (v : Bool) (s : State) : (emit (.set .rs v) s).e = s.e := rfl
@[simp] theorem emit_rs_d (v : Bool) (s : State) : (emit (.set .rs v) s).d = s.d := rfl
@[simp] theorem emit_rs_display (v : Bool) (s : State) : (emit (.set .rs v) s).display = s.display := rfl

@[simp] theorem emit_rw_rs (v : Bool) (s : State) : (emit (.set .rw v) s).rs = s.rs := rfl
@[simp] theorem emit_rw_rw (v : Bool) (s : State) : (emit (.set .rw v) s).rw = v := rfl
@[simp] theorem emit_rw_e (v : Bool) (s : State) : (emit (.set .rw v) s).e = s.e := rfl
@[simp] theorem emit_rw_d (v : Bool) (s : State) : (emit (.set .rw v) s).d = s.d := rfl
@[simp] theorem emit_rw_display (v : Bool) (s : State) : (emit (.set .rw v) s).display = s.display := rfl

@[simp] theorem emit_e_rs (v : Bool) (s : State) : (emit (.set .e v) s).rs = s.rs := rfl
@[simp] theorem emit_e_rw (v : Bool) (s : State) : (emit (.set .e v) s).rw = s.rw := rfl
@[simp] theorem emit_e_e (v : Bool) (s : State) : (emit (.set .e v) s).e = v := rfl
@[simp] theorem emit_e_d (v : Bool) (s : State) : (emit (.set .e v) s).d = s.d := rfl
@[simp] theorem emit_e_display (v : Bool) (s : State) : (emit (.set .e v) s).display = if s.e && !v && !s.rw then receiveStrobe s.cfg s.rs s.d s.display else s.display := rfl

@[simp] theorem emit_setD_rs (n : Nibble) (s : State) : (emit (.setD n) s).rs = s.rs := rfl
@[simp] theorem emit_setD_rw (n : Nibble) (s : State) : (emit (.setD n) s).rw = s.rw := rfl
@[simp] theorem emit_setD_e (n : Nibble) (s : State) : (emit (.setD n) s).e = s.e := rfl
@[simp] theorem emit_setD_d (n : Nibble) (s : State) : (emit (.setD n) s).d = n := rfl
@[simp] theorem emit_setD_display (n : Nibble) (s : State) : (emit (.setD n) s).display = s.display := rfl

@[simp] theorem emit_wait_rs (t : Nat) (s : State) : (emit (.wait t) s).rs = s.rs := rfl
@[simp] theorem emit_wait_rw (t : Nat) (s : State) : (emit (.wait t) s).rw = s.rw := rfl
@[simp] theorem emit_wait_e (t : Nat) (s : State) : (emit (.wait t) s).e = s.e := rfl
@[simp] theorem emit_wait_d (t : Nat) (s : State) : (emit (.wait t) s).d = s.d := rfl
@[simp] theorem emit_wait_display (t : Nat) (s : State) : (emit (.wait t) s).display = s.display := rfl

end Sys2Proof.Machine
end

