-- ==== Sys2Proof/Laws/Ops.lean ====
section
/-! SUPPORT. One law per shared operation: what emitting a list of events does and leaves alone, and that each operation of
the Signal Transmitter emits exactly the events of its rule. -/

namespace Sys2Proof.Machine

@[simp] theorem emitAll_nil (s : State) : emitAll [] s = s := rfl

@[simp] theorem emitAll_cons (ev : Event) (l : List Event) (s : State) :
    emitAll (ev :: l) s = emitAll l (emit ev s) := rfl

theorem emitAll_append (l l' : List Event) (s : State) : emitAll (l ++ l') s = emitAll l' (emitAll l s) := by
  simp [emitAll, List.foldl_append]

/-- What no event touches: the registers, the configuration, the input and BL. -/
theorem emitAll_keeps (l : List Event) (s : State) :
    (emitAll l s).row = s.row ∧ (emitAll l s).col = s.col ∧ (emitAll l s).pc = s.pc ∧ (emitAll l s).esc = s.esc ∧
      (emitAll l s).init = s.init ∧ (emitAll l s).bl = s.bl ∧ (emitAll l s).cfg = s.cfg ∧
      (emitAll l s).timing = s.timing ∧ (emitAll l s).pins = s.pins ∧ (emitAll l s).stream = s.stream := by
  induction l generalizing s with
  | nil => simp
  | cons ev l ih => simpa using ih (emit ev s)

@[simp] theorem emitAll_row (l : List Event) (s : State) : (emitAll l s).row = s.row := (emitAll_keeps l s).1
@[simp] theorem emitAll_col (l : List Event) (s : State) : (emitAll l s).col = s.col := (emitAll_keeps l s).2.1
@[simp] theorem emitAll_pc (l : List Event) (s : State) : (emitAll l s).pc = s.pc := (emitAll_keeps l s).2.2.1
@[simp] theorem emitAll_esc (l : List Event) (s : State) : (emitAll l s).esc = s.esc := (emitAll_keeps l s).2.2.2.1
@[simp] theorem emitAll_init (l : List Event) (s : State) : (emitAll l s).init = s.init :=
  (emitAll_keeps l s).2.2.2.2.1
@[simp] theorem emitAll_bl (l : List Event) (s : State) : (emitAll l s).bl = s.bl :=
  (emitAll_keeps l s).2.2.2.2.2.1
@[simp] theorem emitAll_cfg (l : List Event) (s : State) : (emitAll l s).cfg = s.cfg :=
  (emitAll_keeps l s).2.2.2.2.2.2.1
@[simp] theorem emitAll_timing (l : List Event) (s : State) : (emitAll l s).timing = s.timing :=
  (emitAll_keeps l s).2.2.2.2.2.2.2.1
@[simp] theorem emitAll_pins (l : List Event) (s : State) : (emitAll l s).pins = s.pins :=
  (emitAll_keeps l s).2.2.2.2.2.2.2.2.1
@[simp] theorem emitAll_stream (l : List Event) (s : State) : (emitAll l s).stream = s.stream :=
  (emitAll_keeps l s).2.2.2.2.2.2.2.2.2

@[simp] theorem emitAll_trace (l : List Event) (s : State) : (emitAll l s).trace = s.trace ++ l := by
  induction l generalizing s with
  | nil => simp
  | cons ev l ih => simp [ih]

/-- An event does not look at the cursor or at PC, so it commutes with setting them. -/
theorem emit_withCursor (ev : Event) (c : Cursor) (pc : Nat) (s : State) :
    emit ev (withCursor c pc s) = withCursor c pc (emit ev s) := by
  rcases ev with ⟨⟨⟩, _⟩ | _ | _ <;> rfl

theorem emitAll_withCursor (l : List Event) (c : Cursor) (pc : Nat) (s : State) :
    emitAll l (withCursor c pc s) = withCursor c pc (emitAll l s) := by
  induction l generalizing s with
  | nil => rfl
  | cons ev l ih => simp [emit_withCursor, ih]

/-- Writing the cursor and PC twice is writing them once. -/
@[simp] theorem withCursor_withCursor (c c' : Cursor) (pc pc' : Nat) (s : State) :
    withCursor c pc (withCursor c' pc' s) = withCursor c pc s := rfl

/-- A state has its own cursor. -/
theorem withCursor_self (s : State) : withCursor (cursorOf s) s.pc s = s := rfl

/-- Each register write is a write of the cursor. -/
theorem setRow_eq (v : Nat) (s : State) : setRow v s = withCursor { cursorOf s with row := v } s.pc s := rfl
theorem setCol_eq (v : Nat) (s : State) : setCol v s = withCursor { cursorOf s with col := v } s.pc s := rfl
theorem setEsc_eq (v : Bool) (s : State) : setEsc v s = withCursor { cursorOf s with esc := v } s.pc s := rfl
theorem setInit_eq (s : State) : setInit s = withCursor { cursorOf s with init := true } s.pc s := rfl
theorem advancePc_eq (s : State) : advancePc s = withCursor (cursorOf s) (s.pc + 1) s := rfl

@[simp] theorem cursorOf_emitAll (l : List Event) (s : State) : cursorOf (emitAll l s) = cursorOf s := by
  simp [cursorOf]

@[simp] theorem cursorOf_withCursor (c : Cursor) (pc : Nat) (s : State) : cursorOf (withCursor c pc s) = c := rfl

/-! ### The Signal Transmitter emits the events of its rules -/

/-- `strobe` emits STROBE (R100). -/
theorem strobe_spec (s : State) : strobe s = emitAll strobeEvents s := rfl

/-- `output` emits TX (R102). -/
theorem output_spec (r : Bool) (b : Byte) (s : State) : output r b s = emitAll (tx r b) s := rfl

/-- `outputUpperNibbleOnly` emits TXU (R104). -/
theorem outputUpperNibbleOnly_spec (r : Bool) (b : Byte) (s : State) :
    outputUpperNibbleOnly r b s = emitAll (txu r b) s := rfl

/-- `cmd` emits TX and its wait (R106). -/
theorem cmd_spec (b : Byte) (t : Nat) (s : State) : cmd b t s = emitAll (cmdEvents b t) s := by
  simp [cmd, cmdEvents, output_spec, emitAll_append]

/-- A wake or mode-switch write emits TXU and its wait (R128). -/
theorem halfCmd_spec (b : Byte) (t : Nat) (s : State) :
    halfCmd b t s = emitAll (txu false b ++ [.wait t]) s := by
  simp [halfCmd, outputUpperNibbleOnly_spec, emitAll_append]

/-- `reposition` emits the set-address command of the cursor (R121). -/
theorem reposition_spec (s : State) :
    reposition s = emitAll (repositionEvents s.cfg.cols s.row s.col) s := by
  simp [reposition, repositionEvents, cmd_spec, tAddr]

end Sys2Proof.Machine
end

