-- ==== Sys2Proof/Laws/Device.lean ====
section
/-! SUPPORT. The laws of a transfer as the display sees it: what TX and TXU do to every field, from any state, and what a
full transfer does to an aligned display. -/

namespace Sys2Proof.Machine

/-- A wait changes the trace only. -/
theorem emitAll_wait (t : Nat) (s : State) : emitAll [.wait t] s = { s with trace := s.trace ++ [.wait t] } := rfl

/-- Everything TX does: two strobes reach the display with RS at `r`; the latches end as R102 says. -/
theorem emitAll_tx (r : Bool) (b : Byte) (s : State) :
    emitAll (tx r b) s =
      { s with
        trace := s.trace ++ tx r b, rs := r, rw := false, e := false, d := loNibble b,
        display := receiveStrobe s.cfg r (loNibble b) (receiveStrobe s.cfg r (hiNibble b) s.display) } := by
  simp [tx, strobeEvents, emit]

/-- Everything TXU does: one strobe reaches the display (R104). -/
theorem emitAll_txu (r : Bool) (b : Byte) (s : State) :
    emitAll (txu r b) s =
      { s with
        trace := s.trace ++ txu r b, rs := r, rw := false, e := false, d := hiNibble b,
        display := receiveStrobe s.cfg r (hiNibble b) s.display } := by
  simp [txu, strobeEvents, emit]

/-- In 4-bit mode with no nibble latched, a full transfer is one received byte (R62). -/
theorem receive_full (cfg : DisplayConfig) (r : Bool) (hi lo : Nibble) (dsp : Display) (h : Aligned dsp) :
    receiveStrobe cfg r lo (receiveStrobe cfg r hi dsp) =
      { receiveByte cfg r hi lo { dsp with strobes := dsp.strobes + 1 } with strobes := dsp.strobes + 2 } := by
  obtain ⟨m4, hf, ac, mem, on, cur, blk, n, f, inc, k⟩ := dsp
  obtain ⟨h1, h2⟩ := h
  simp only at h1 h2
  subst h1 h2
  cases r
  · rfl
  · rfl

/-! What each byte R62 lists does to the display when its transfer completes. -/

theorem nibbles_append : ∀ b : Byte, hiNibble b ++ loNibble b = b := by decide

theorem receive_data (cfg : DisplayConfig) (b : Byte) (dsp : Display) :
    receiveByte cfg true (hiNibble b) (loNibble b) dsp =
      { dsp with half := none, ddram := Memory.write dsp.ddram dsp.ac.toNat b, ac := nextAc cfg { dsp with half := none } } := by
  simp only [receiveByte, receiveData, nibbles_append, if_true]

theorem receive_clear (cfg : DisplayConfig) (dsp : Display) :
    receiveByte cfg false (hiNibble 0x01#8) (loNibble 0x01#8) dsp =
      { dsp with half := none, ddram := Memory.blank, ac := 0#7, inc := true } := rfl

theorem receive_home (cfg : DisplayConfig) (dsp : Display) :
    receiveByte cfg false (hiNibble 0x02#8) (loNibble 0x02#8) dsp = { dsp with half := none, ac := 0#7 } := rfl

theorem receive_entry (cfg : DisplayConfig) (dsp : Display) :
    receiveByte cfg false (hiNibble 0x06#8) (loNibble 0x06#8) dsp = { dsp with half := none, inc := true } := rfl

theorem receive_off (cfg : DisplayConfig) (dsp : Display) :
    receiveByte cfg false (hiNibble 0x08#8) (loNibble 0x08#8) dsp =
      { dsp with half := none, on := false, cur := false, blk := false } := rfl

theorem receive_on (cfg : DisplayConfig) (c b : Bool) (dsp : Display) :
    receiveByte cfg false (hiNibble (donByte c b)) (loNibble (donByte c b)) dsp =
      { dsp with half := none, on := true, cur := c, blk := b } := by
  cases c <;> cases b <;> rfl

theorem receive_function (cfg : DisplayConfig) (n f : Bool) (dsp : Display) :
    receiveByte cfg false (hiNibble (fsetByte n f)) (loNibble (fsetByte n f)) dsp =
      { dsp with half := none, mode4 := true, n := n, f := f } := by
  cases n <;> cases f <;> rfl

theorem setaddr_fields : ∀ a : Addr, (hiNibble (setaddrByte a)).getLsbD 3 = true ∧
    (hiNibble (setaddrByte a) ++ loNibble (setaddrByte a)).extractLsb' 0 7 = a := by decide

theorem receive_address (cfg : DisplayConfig) (a : Addr) (dsp : Display) :
    receiveByte cfg false (hiNibble (setaddrByte a)) (loNibble (setaddrByte a)) dsp =
      { dsp with half := none, ac := a } := by
  simp only [receiveByte, receiveCommand, (setaddr_fields a).1, (setaddr_fields a).2, if_true, Bool.false_eq_true, if_false]

end Sys2Proof.Machine
end

