-- ==== Sys2Proof/Laws/DisplayOps.lean ====
section
/-! SUPPORT. One law per display operation (41_display_ops.md): the cursor it leaves and the events it emits, from any state
in range. -/

namespace Sys2Proof.Machine

/-- Every list of events leaves the cursor and PC, so a state after events is its own `withCursor`. -/
theorem emitAll_self (l : List Event) (s : State) : emitAll l s = withCursor (cursorOf s) s.pc (emitAll l s) := by
  conv_lhs => rw [← withCursor_self s, emitAll_withCursor]

theorem padEvents_succ (k : Nat) : padEvents (k + 1) = writeEvents 0x20#8 ++ padEvents k := by
  simp [padEvents, List.replicate_succ]

/-- PUTC (R122). -/
theorem opPutc_spec (ch : Byte) (s : State) :
    opPutc ch s =
      if s.col = s.cfg.cols then s
      else withCursor { cursorOf s with col := s.col + 1 } s.pc (emitAll (writeEvents ch) s) := by
  by_cases h : s.col = s.cfg.cols
  · simp [opPutc, atEdge, h]
  · have hw : emit (.wait tData) (output true ch s) = emitAll (writeEvents ch) s := by
      simp [writeEvents, emitAll_append, output_spec, tData]
    simp only [opPutc, atEdge, beq_iff_eq, h, ↓reduceIte]
    simp [hw, setCol_eq]

/-- `k` spaces that fit into the row (R132, R134). -/
theorem padSpaces_spec (k : Nat) (s : State) (h : s.col + k ≤ s.cfg.cols) :
    padSpaces k s = withCursor { cursorOf s with col := s.col + k } s.pc (emitAll (padEvents k) s) := by
  induction k generalizing s with
  | zero => rfl
  | succ k ih =>
    rw [padSpaces, opPutc_spec, if_neg (by omega), ih _ (by simp [withCursor]; omega), padEvents_succ,
      emitAll_append, emitAll_withCursor]
    simp [space]
    simp [withCursor]
    omega

/-- CLEAR (R124). -/
theorem opClear_spec (s : State) :
    opClear s = withCursor { cursorOf s with row := 0, col := 0 } s.pc (emitAll (cmdEvents 0x01#8 2000) s) := by
  simp [opClear, cmd_spec, tLong, withCursor, cursorOf, setRow, setCol]

/-- HOME (R126). -/
theorem opHome_spec (s : State) :
    opHome s = withCursor { cursorOf s with row := 0, col := 0 } s.pc (emitAll (cmdEvents 0x02#8 2000) s) := by
  simp [opHome, cmd_spec, tLong, withCursor, cursorOf, setRow, setCol]

/-- RESET (R128). -/
theorem opReset_spec (s : State) :
    opReset s = withCursor { row := 0, col := 0, esc := s.esc, init := true } s.pc
      (emitAll (resetEvents s.cfg s.timing) s) := by
  simp only [opReset, opClear, resetConfigure, resetWake, cmd_spec, halfCmd_spec, setInit_eq, ← emitAll_append,
    emitAll_cfg, emitAll_timing, emitAll_withCursor, setRow_eq, setCol_eq, cursorOf_emitAll, cursorOf_withCursor,
    withCursor_withCursor, tLong, tWake1, tWake2]
  simp only [resetEvents, List.append_assoc]
  simp [withCursor, cursorOf]

/-- CR (R130). -/
theorem opCr_spec (s : State) :
    opCr s = withCursor { cursorOf s with col := 0 } s.pc (emitAll (repositionEvents s.cfg.cols s.row 0) s) := by
  simp only [opCr, reposition_spec, setCol_eq, emitAll_withCursor]
  simp [withCursor, cursorOf]

/-- NL (R132), both branches. -/
theorem opNl_spec (s : State) (h : s.col ≤ s.cfg.cols) :
    opNl s =
      if s.row + 1 < s.cfg.lines then
        withCursor { cursorOf s with row := s.row + 1, col := 0 } s.pc
          (emitAll (padEvents (s.cfg.cols - s.col) ++ repositionEvents s.cfg.cols (s.row + 1) 0) s)
      else
        withCursor { cursorOf s with col := s.cfg.cols } s.pc (emitAll (padEvents (s.cfg.cols - s.col)) s) := by
  have e : s.col + (s.cfg.cols - s.col) = s.cfg.cols := by omega
  simp only [opNl]
  rw [padSpaces_spec _ _ (by omega)]
  by_cases hr : s.row + 1 < s.cfg.lines
  · simp only [hr, ↓reduceIte, reposition_spec, setRow_eq, setCol_eq, emitAll_withCursor, emitAll_append, notLastRow]
    simp [withCursor, cursorOf, hr]
  · simp [notLastRow, hr, e, withCursor, cursorOf]

/-- TAB (R134). -/
theorem opTab_spec (s : State) (h : s.col ≤ s.cfg.cols) :
    opTab s =
      withCursor { cursorOf s with col := min s.cfg.cols (s.col + (8 - s.col % 8)) } s.pc
        (emitAll (padEvents (min (8 - s.col % 8) (s.cfg.cols - s.col))) s) := by
  have e : s.col + min (8 - s.col % 8) (s.cfg.cols - s.col) = min s.cfg.cols (s.col + (8 - s.col % 8)) := by omega
  simp only [opTab, tabWidth]
  rw [padSpaces_spec _ _ (by omega), e]

/-- FLASH (R136). -/
theorem opFlash_spec (s : State) : opFlash s = emitAll (flashEvents s.cfg s.timing) s := by
  simp [opFlash, flashCycles, flashTimes, cmd_spec, flashEvents, emitAll_append, tFlash]

/-- BKSP past column 0 (R138). -/
theorem opBksp_spec (s : State) (h : 0 < s.col) (h' : s.col ≤ s.cfg.cols) :
    opBksp s =
      withCursor { cursorOf s with col := s.col - 1 } s.pc
        (emitAll (repositionEvents s.cfg.cols s.row (s.col - 1) ++ writeEvents 0x20#8
          ++ repositionEvents s.cfg.cols s.row (s.col - 1)) s) := by
  have h1 : s.col - 1 ≠ s.cfg.cols := by omega
  simp only [opBksp, pastLeft, h, decide_true, ↓reduceIte, reposition_spec, opPutc_spec, space]
  rw [setCol_eq, emitAll_withCursor]
  simp only [cursorOf_emitAll]
  rw [if_neg (by simpa [withCursor] using h1)]
  simp only [emitAll_withCursor, setCol_eq, emitAll_append, withCursor_withCursor, cursorOf_withCursor]
  simp [withCursor, cursorOf]

/-- BKSP at column 0 is FLASH (R138, R139 c). -/
theorem opBksp_zero (s : State) (h : s.col = 0) : opBksp s = opFlash s := by
  simp [opBksp, pastLeft, h]

end Sys2Proof.Machine
end

