-- ==== Sys2Proof/Laws/PerInstr.lean ====
section
/-! SUPPORT. Statements for every instruction, one lemma per constructor. Family `WordFields`: the word of an instruction
keeps its two fields apart. -/

namespace Sys2Proof.Laws.WordFields

/-- The fields of the nine-bit word (30_encoding.md R70, R82): bit 8 is the instruction's ESC or RS bit, bits 7 to 0 are its
byte, bits 7 to 4 of the byte are what a half transfer sends. -/
def Statement (i : Instr) : Prop :=
  (encode i).getLsbD 8 = topBitOf i ∧ (encode i).extractLsb' 0 8 = byteOf i ∧
    (encode i).extractLsb' 4 4 = (byteOf i).extractLsb' 4 4

/-- The fields of any word made of a top bit and a byte. -/
theorem of_word9 : ∀ (top : Bool) (b : Byte), (word9 top b).getLsbD 8 = top ∧ (word9 top b).extractLsb' 0 8 = b ∧
    (word9 top b).extractLsb' 4 4 = b.extractLsb' 4 4 := by decide

theorem esc : Statement .esc := of_word9 _ _
theorem escR : Statement .escR := of_word9 _ _
theorem escH : Statement .escH := of_word9 _ _
theorem escOther (b : Byte) : Statement (.escOther b) := of_word9 _ _
theorem nl : Statement .nl := of_word9 _ _
theorem cr : Statement .cr := of_word9 _ _
theorem tab : Statement .tab := of_word9 _ _
theorem bel : Statement .bel := of_word9 _ _
theorem bs : Statement .bs := of_word9 _ _
theorem ff : Statement .ff := of_word9 _ _
theorem putc (b : Byte) : Statement (.putc b) := of_word9 _ _
theorem drop (b : Byte) : Statement (.drop b) := of_word9 _ _
theorem wake (lo : Nibble) : Statement (.wake lo) := of_word9 _ _
theorem mode4 (lo : Nibble) : Statement (.mode4 lo) := of_word9 _ _
theorem fset (n f : Bool) : Statement (.fset n f) := of_word9 _ _
theorem doff : Statement .doff := of_word9 _ _
theorem don (c b : Bool) : Statement (.don c b) := of_word9 _ _
theorem entry : Statement .entry := of_word9 _ _
theorem clr : Statement .clr := of_word9 _ _
theorem homec : Statement .homec := of_word9 _ _
theorem setaddr (a : Addr) : Statement (.setaddr a) := of_word9 _ _
theorem data (ch : Byte) : Statement (.data ch) := of_word9 _ _

end Sys2Proof.Laws.WordFields
end

