-- ==== Sys2Proof/Laws/Step.lean ====
section
/-! SUPPORT. The run of the machine, step by step. -/

namespace Sys2Proof.Machine

/-- One more step of a run, when the first step gives a next state. -/
theorem run_succ_of_next {M : Host.Core} {s s' : M.State} (k : Nat) (h : M.step s = .next s') :
    M.run (k + 1) s = M.run k s' := by
  simp only [Host.Core.run, h]

end Sys2Proof.Machine
end

