-- ==== Sys2Proof/Tests/Slice0.lean ====
section
/-! SUPPORT. Tests of single steps against spec/95_test_vectors.md, words written out from spec/opcode_table.json, ill-formed
terms, and for each statement with hypotheses a witness that meets them. -/

namespace Sys2Proof.Tests

open Sys2Proof.Machine

/-! ### Helpers -/

/-- The next state of an outcome, where it has one. -/
def next? (o : Host.Outcome State Fault Refusal) : Option State :=
  match o with
  | .next s => some s
  | .fault _ => none
  | .refused _ => none

/-- A machine of `lines` by `cols` with the cursor at `(row, col)`. -/
def at_ (lines cols row col : Nat) : State :=
  { State.reset with cfg := { defaultConfig with lines := lines, cols := cols }, row := row, col := col }

/-- The same with the display configured and its address counter at the cursor. -/
def synced (lines cols row col : Nat) : State :=
  { at_ lines cols row col with
    display := { Display.powerOn with
      mode4 := true, on := true, n := decide (1 < lines), ac := cellAddr cols row col } }

/-- The same with one byte on offer. -/
def offered (s : State) (b : Byte) : State := { s with stream := [b] }

/-- The same with a stray nibble latched. -/
def stray (hi : Nibble) : State :=
  { synced 2 16 0 0 with display := { (synced 2 16 0 0).display with half := some hi } }

/-- The cursor after an instruction. -/
def cursorAfter (i : Instr) (s : State) : Option (Nat × Nat) := (next? (exec i s)).map fun t => (t.row, t.col)

/-- The events an instruction adds, from a state with an empty trace. -/
def eventsOf (i : Instr) (s : State) : Option (List Event) := (next? (exec i s)).map fun t => t.trace

/-- Number of events and sum of waits, as the tables of spec/95 give them. -/
def countsOf (i : Instr) (s : State) : Option (Nat × Nat) :=
  (eventsOf i s).map fun l => (l.length, waitTotal l)

/-! ### Ill-formed terms (30_encoding.md R72 to R75, R92) -/

theorem test_ill_formed_escOther :
    WellFormed (.escOther 0x52#8) = false ∧ WellFormed (.escOther 0x48#8) = false := by decide
theorem test_ill_formed_putc : WellFormed (.putc 0x1F#8) = false ∧ WellFormed (.putc 0x7F#8) = false := by decide
theorem test_ill_formed_drop : WellFormed (.drop 0x0A#8) = false ∧ WellFormed (.drop 0x41#8) = false := by decide
theorem test_ill_formed_setaddr : WellFormed (.setaddr 0x68#7) = false ∧ WellFormed (.setaddr 0x7F#7) = false := by
  decide
theorem test_ill_formed_data : WellFormed (.data 0x1F#8) = false ∧ WellFormed (.data 0x7F#8) = false := by decide

/-! ### Words written out from the table, one for every constructor -/

theorem test_decode_controls :
    decode .in9 0b000000111#9 = .ok .bel ∧ decode .in9 0b000001000#9 = .ok .bs ∧
      decode .in9 0b000001001#9 = .ok .tab ∧ decode .in9 0b000001010#9 = .ok .nl ∧
      decode .in9 0b000001100#9 = .ok .ff ∧ decode .in9 0b000001101#9 = .ok .cr ∧
      decode .in9 0b000011011#9 = .ok .esc := by decide
theorem test_decode_escaped :
    decode .in9 0b101010010#9 = .ok .escR ∧ decode .in9 0b101001000#9 = .ok .escH ∧
      decode .in9 0b100011011#9 = .ok (.escOther 0x1B#8) ∧ decode .in9 0b111111111#9 = .ok (.escOther 0xFF#8) := by decide
theorem test_decode_putc_bounds :
    decode .in9 0b000100000#9 = .ok (.putc 0x20#8) ∧ decode .in9 0b001111110#9 = .ok (.putc 0x7E#8) := by decide
theorem test_decode_drop_bounds :
    decode .in9 0b000000000#9 = .ok (.drop 0x00#8) ∧ decode .in9 0b000011111#9 = .ok (.drop 0x1F#8) ∧
      decode .in9 0b001111111#9 = .ok (.drop 0x7F#8) ∧ decode .in9 0b010000000#9 = .ok (.drop 0x80#8) := by decide
theorem test_decode_half :
    decode .busHalf 0b000110000#9 = .ok (.wake 0#4) ∧ decode .busHalf 0b000100101#9 = .ok (.mode4 5#4) := by decide
theorem test_decode_full :
    decode .busFull 0b000100100#9 = .ok (.fset false true) ∧ decode .busFull 0b000101000#9 = .ok (.fset true false) ∧
      decode .busFull 0b000001000#9 = .ok .doff ∧ decode .busFull 0b000001101#9 = .ok (.don false true) ∧
      decode .busFull 0b000001110#9 = .ok (.don true false) ∧ decode .busFull 0b000000110#9 = .ok .entry ∧
      decode .busFull 0b000000001#9 = .ok .clr ∧ decode .busFull 0b000000010#9 = .ok .homec ∧
      decode .busFull 0b011100111#9 = .ok (.setaddr 0x67#7) ∧ decode .busFull 0b101000001#9 = .ok (.data 0x41#8) := by
  decide
theorem test_decode_refuses :
    decode .busFull 0b000000111#9 = .error (.noFullTransfer 0x007#9) ∧
      decode .busHalf 0b100110000#9 = .error (.noHalfTransfer 0x130#9) := by decide

/-- The whole table of 40 IN9 rows by its class sizes (spec/95 section 2.10): the DROP, PUTC and ESC_OTHER words. -/
theorem test_class_sizes :
    ((List.range 256).filter fun b => decodeInput false (BitVec.ofNat 8 b) == .drop (BitVec.ofNat 8 b)).length = 154 ∧
      ((List.range 256).filter fun b => decodeInput false (BitVec.ofNat 8 b) == .putc (BitVec.ofNat 8 b)).length = 95 ∧
      ((List.range 256).filter fun b => decodeInput true (BitVec.ofNat 8 b) == .escOther (BitVec.ofNat 8 b)).length
        = 254 := by decide +kernel

/-! ### The configuration and the addresses (spec/95 S12 and section 2.2) -/

theorem test_config_bounds :
    validConfig { defaultConfig with lines := 1, cols := 80 } = true ∧
      validConfig { defaultConfig with lines := 1, cols := 81 } = false ∧
      validConfig { defaultConfig with lines := 2, cols := 41 } = false ∧
      validConfig { defaultConfig with lines := 4, cols := 20 } = true ∧
      validConfig { defaultConfig with lines := 3, cols := 16 } = false ∧
      validConfig { defaultConfig with cols := 0 } = false ∧ validConfig { defaultConfig with ifWidth := 8 } = false := by
  decide
theorem test_set_address_bytes :
    setaddrByte (cellAddr 80 0 79) = 0xCF#8 ∧ setaddrByte (cellAddr 16 1 0) = 0xC0#8 ∧
      setaddrByte (cellAddr 20 2 0) = 0x94#8 ∧ setaddrByte (cellAddr 20 3 19) = 0xE7#8 := by decide

/-! ### One step of each input instruction (spec/95 sections 2.3 to 2.10) -/

/-- `TX(1,0x7E)`, written out: the nibbles 7 and E, RS high, RW low, a strobe after each. -/
theorem test_putc_events :
    eventsOf (.putc 0x7E#8) (at_ 2 16 1 14) =
      some [.set .rw false, .set .rs true, .setD 0x7#4, .wait 20, .set .e true, .wait 40, .set .e false, .wait 20,
        .setD 0xE#4, .wait 20, .set .e true, .wait 40, .set .e false, .wait 20, .wait 40] := by decide
theorem test_putc_pins :
    cursorAfter (.putc 0x20#8) (at_ 2 16 0 15) = some (0, 16) ∧ cursorAfter (.putc 0x41#8) (at_ 2 16 0 16) = some (0, 16) ∧
      countsOf (.putc 0x41#8) (at_ 2 16 0 16) = some (0, 0) := by decide
theorem test_nl_counts :
    countsOf .nl (at_ 2 16 0 2) = some (225, 3960) ∧ countsOf .nl (at_ 2 16 1 2) = some (210, 2800) ∧
      countsOf .nl (at_ 2 16 0 16) = some (15, 1160) ∧ countsOf .nl (at_ 1 80 0 0) = some (1200, 16000) := by
  decide +kernel
theorem test_nl_cursor :
    cursorAfter .nl (at_ 2 16 0 2) = some (1, 0) ∧ cursorAfter .nl (at_ 2 16 1 2) = some (1, 16) ∧
      cursorAfter .nl (at_ 4 20 2 0) = some (3, 0) ∧ cursorAfter .nl (at_ 1 8 0 3) = some (0, 8) := by decide
theorem test_tab_cursor :
    cursorAfter .tab (at_ 4 20 0 7) = some (0, 8) ∧ cursorAfter .tab (at_ 4 20 0 8) = some (0, 16) ∧
      cursorAfter .tab (at_ 4 20 0 17) = some (0, 20) ∧ cursorAfter .tab (at_ 1 5 0 1) = some (0, 5) := by decide
theorem test_tab_counts :
    countsOf .tab (at_ 2 16 0 3) = some (75, 1000) ∧ countsOf .tab (at_ 2 16 0 16) = some (0, 0) ∧
      countsOf .tab (at_ 4 20 0 17) = some (45, 600) := by decide
theorem test_cr_events :
    eventsOf .cr (at_ 4 20 3 20) = some (tx false 0xD4#8 ++ [.wait 1000]) ∧
      cursorAfter .cr (at_ 4 20 3 20) = some (3, 0) := by decide
theorem test_bel_events :
    eventsOf .bel (at_ 2 16 0 3) =
      some (tx false 0x08#8 ++ [.wait 200000] ++ tx false 0x0C#8 ++ [.wait 40] ++ tx false 0x08#8 ++ [.wait 200000]
        ++ tx false 0x0C#8 ++ [.wait 40]) ∧ countsOf .bel (at_ 2 16 0 3) = some (60, 400720) := by decide
theorem test_bs_events :
    eventsOf .bs (at_ 4 20 3 20) =
      some (tx false 0xE7#8 ++ [.wait 1000] ++ tx true 0x20#8 ++ [.wait 40] ++ tx false 0xE7#8 ++ [.wait 1000]) ∧
      cursorAfter .bs (at_ 4 20 3 20) = some (3, 19) := by decide
theorem test_bs_column_zero :
    countsOf .bs (at_ 2 16 1 0) = some (60, 400720) ∧ cursorAfter .bs (at_ 2 16 1 0) = some (1, 0) := by decide
theorem test_ff : countsOf .ff (at_ 2 16 1 7) = some (15, 2160) ∧ cursorAfter .ff (at_ 2 16 1 7) = some (0, 0) := by
  decide
theorem test_esc_h :
    eventsOf .escH (at_ 2 16 1 16) = some (tx false 0x02#8 ++ [.wait 2000]) ∧
      cursorAfter .escH (at_ 2 16 1 16) = some (0, 0) := by decide
theorem test_esc_r_counts :
    countsOf .escR (at_ 2 16 0 3) = some (111, 15320) ∧
      countsOf .escR { at_ 2 16 0 3 with timing := { tWake3 := 100, tShort := 37 } } = some (111, 14405) := by
  decide +kernel
theorem test_esc_r_latches :
    (next? (exec .escR (at_ 2 16 0 3))).map (fun t => (t.rs, t.rw, t.e, t.d, t.init)) =
      some (false, false, false, 0x1#4, true) := by decide
theorem test_esc_sets_flag : (next? (step (offered (at_ 2 16 0 3) 0x1B#8))).map (fun t => (t.esc, t.pc, t.col)) =
    some (true, 1, 3) := by decide
theorem test_esc_other_discards :
    (next? (step (offered { at_ 2 16 0 3 with esc := true } 0x0A#8))).map (fun t => (t.esc, t.row, t.col, t.trace)) =
      some (false, 0, 3, []) := by decide
theorem test_drop_consumes :
    (next? (step (offered (at_ 2 16 0 3) 0xFF#8))).map (fun t => (t.pc, t.esc, t.row, t.col, t.trace)) =
      some (1, false, 0, 3, []) := by decide

/-! ### The bus transfers (spec/95 section 2.1) -/

theorem test_wake_events :
    eventsOf (.wake 0xF#4) (at_ 2 16 0 0) =
      some [.set .rw false, .set .rs false, .setD 0x3#4, .wait 20, .set .e true, .wait 40, .set .e false, .wait 20] := by
  decide
theorem test_mode4_counts : countsOf (.mode4 0#4) (at_ 2 16 0 0) = some (8, 80) := by decide
theorem test_fset_events : eventsOf (.fset true false) (at_ 2 16 0 0) =
    some [.set .rw false, .set .rs false, .setD 0x2#4, .wait 20, .set .e true, .wait 40, .set .e false, .wait 20,
      .setD 0x8#4, .wait 20, .set .e true, .wait 40, .set .e false, .wait 20] := by decide
theorem test_data_latches :
    (next? (exec (.data 0x41#8) (at_ 2 16 0 0))).map (fun t => (t.rs, t.rw, t.e, t.d)) =
      some (true, false, false, 0x1#4) := by decide
theorem test_setaddr_counts : countsOf (.setaddr 0x67#7) (at_ 2 16 0 0) = some (14, 160) := by decide

/-! ### The display (20_memory.md R62) -/

theorem test_display_putc_cell :
    (next? (exec (.putc 0x41#8) (synced 4 20 2 7))).map (fun t => (cell t.display 0x1B#7, t.display.ac)) =
      some (some 0x41#8, 0x1C#7) := by decide
theorem test_display_bs_cell :
    (next? (exec .bs (synced 2 16 1 3))).map (fun t => (cell t.display 0x42#7, t.display.ac)) =
      some (some 0x20#8, 0x42#7) := by decide
theorem test_display_row_end_is_free :
    (next? (exec (.putc 0x41#8) (synced 2 16 0 15))).map (fun t => t.display.ac) =
      some (Config.freeAddr (0 + 1)) := by rfl
/-- A display in 4-bit mode that holds a stray nibble takes {stray, 3} from the first wake write (R225). -/
theorem test_display_stray_nibble :
    (next? (exec (.wake 0#4) (stray 0x8#4))).map (fun t => (t.display.mode4, t.display.half, t.display.ac)) =
      some (true, none, 0x03#7) := by decide
/-- A display in 4-bit mode takes 0x33 from the first two wake writes: 8-bit mode, with N and F clear (R225). -/
theorem test_display_wake_pairs_up :
    (next? (exec (.wake 0#4) (stray 0x3#4))).map (fun t => (t.display.mode4, t.display.half, t.display.n)) =
      some (false, none, false) := by decide

/-! ### Witnesses: each statement's hypotheses are met together -/

/-- `DecodeOfEncodeIsIdentity`, at the ends of the operand ranges. -/
theorem test_witness_well_formed :
    WellFormed (.putc 0x20#8) = true ∧ WellFormed (.putc 0x7E#8) = true ∧ WellFormed (.drop 0x00#8) = true ∧
      WellFormed (.drop 0xFF#8) = true ∧ WellFormed (.escOther 0x1B#8) = true ∧ WellFormed (.setaddr 0x67#7) = true ∧
      WellFormed (.data 0x7E#8) = true ∧ WellFormed (.wake 0xF#4) = true := by decide
/-- `EncodeOfDecodeIsIdentity`, one word per format. -/
theorem test_witness_decodes :
    (∃ i, decode .in9 0x1FF#9 = .ok i) ∧ (∃ i, decode .busFull 0x080#9 = .ok i) ∧ (∃ i, decode .busHalf 0x02F#9 = .ok i) :=
  ⟨⟨_, rfl⟩, ⟨_, rfl⟩, ⟨_, rfl⟩⟩
/-- `OnlyUnsentBusWordsAreRejected`: both sides of the equivalence, at the ends of the address range. -/
theorem test_witness_bus_words :
    (∃ i, decode .busFull (word9 false 0xFF#8) = .ok i) ∧
      decode .busFull (word9 false 0x7F#8) = .error (.noFullTransfer 0x07F#9) ∧
      (∃ i, decode .busHalf (word9 false 0x2F#8) = .ok i) ∧
      decode .busHalf (word9 true 0x30#8) = .error (.noHalfTransfer 0x130#9) ∧
      decode .busHalf (word9 false 0x40#8) = .error (.noHalfTransfer 0x040#9) :=
  ⟨⟨_, rfl⟩, rfl, ⟨_, rfl⟩, rfl, rfl⟩
/-- `DropClassIsTheUnmappedBytes`: inside and outside at a boundary. -/
theorem test_witness_drop_class :
    decodeInput false 0x1A#8 = .drop 0x1A#8 ∧ decodeInput false 0x1B#8 ≠ .drop 0x1B#8 := by decide
/-- `StepRunsTheDecodedByte`, `EscapeFlagLivesForOneByte`, with ESC set and clear. -/
theorem test_witness_step :
    validConfig (offered (at_ 2 16 0 0) 0x1B#8).cfg = true ∧
      (offered (at_ 2 16 0 0) 0x1B#8).stream[(offered (at_ 2 16 0 0) 0x1B#8).pc]? = some 0x1B#8 ∧
      (∃ t, step (offered (at_ 2 16 0 0) 0x1B#8) = .next t) ∧
      ∃ t, step (offered { at_ 2 16 0 0 with esc := true } 0x1B#8) = .next t :=
  ⟨by decide, by decide, ⟨_, rfl⟩, ⟨_, rfl⟩⟩
/-- `EscapePrefixOnlyMovesTheFlag` and `UnmappedBytesAreIgnored`: the prefix byte itself under ESC, and a dropped byte. -/
theorem test_witness_unmapped :
    0x1B#8 ≠ 0x52#8 ∧ 0x1B#8 ≠ 0x48#8 ∧ decodeInput true 0x1B#8 = .escOther 0x1B#8 ∧
      decodeInput (at_ 2 16 0 0).esc 0x7F#8 = .drop 0x7F#8 := by decide
/-- `UpperNibbleOutputIsEightEvents`: two bytes with one upper nibble. -/
theorem test_witness_upper_nibble : (0x3F#8).extractLsb' 4 4 = (0x30#8).extractLsb' 4 4 ∧ 0x3F#8 ≠ 0x30#8 := by decide
/-- `StepFollowsThePseudocode`: one byte on offer, and a run of one step. -/
theorem test_witness_pseudocode :
    validConfig (offered (at_ 1 8 0 8) 0x08#8).cfg = true ∧
      (offered (at_ 1 8 0 8) 0x08#8).stream[(offered (at_ 1 8 0 8) 0x08#8).pc]? = some 0x08#8 ∧
      (offered (at_ 1 8 0 8) 0x08#8).pc + 1 ≤ (offered (at_ 1 8 0 8) 0x08#8).stream.length := by decide
/-- `IdleStepHoldsTheState`. -/
theorem test_witness_idle : validConfig State.reset.cfg = true ∧ State.reset.stream.length ≤ State.reset.pc := by decide
/-- `StepRefusesOnlyInvalidConfig`: both sides. -/
theorem test_witness_refusal :
    (∃ t, step State.reset = .next t) ∧ step (at_ 3 16 0 0) = .refused .invalidConfig ∧
      step { State.reset with cfg := { defaultConfig with ifWidth := 8 } } = .refused .invalidConfig :=
  ⟨⟨_, rfl⟩, rfl, rfl⟩
/-- `ConfigurationIsAcceptedExactly`: both sides, at the largest product. -/
theorem test_witness_config :
    validConfig (at_ 2 40 0 0).cfg = true ∧ validConfig (at_ 4 21 0 0).cfg = false ∧
      ∃ t, step (at_ 2 40 0 0) = .next t := ⟨by decide, by decide, ⟨_, rfl⟩⟩
/-- `PlacedWordIsFetchedAndRun`, and what its step does for ESC_R, the word with ESC set. -/
theorem test_witness_placed_word :
    validConfig State.reset.cfg = true ∧ (511 : Nat) < 512 ∧
      (next? (step (State.reset.withFetchWord 9 0x152))).map (fun t => (t.init, t.esc, t.trace.length)) =
        some (true, false, 111) := by decide +kernel
/-- `PutcWritesUnlessPinned`: the three clauses. -/
theorem test_witness_putc :
    (at_ 2 16 1 16).col = (at_ 2 16 1 16).cfg.cols ∧ (at_ 2 16 1 14).col ≠ (at_ 2 16 1 14).cfg.cols ∧
      (at_ 2 16 1 15).col + 1 = (at_ 2 16 1 15).cfg.cols := by decide
/-- `NewlinePadsThenAdvances`: not the last row, the last row, and pinned. -/
theorem test_witness_nl :
    ((at_ 2 16 0 16).col ≤ (at_ 2 16 0 16).cfg.cols ∧ (at_ 2 16 0 16).row + 1 < (at_ 2 16 0 16).cfg.lines) ∧
      (at_ 2 16 1 0).col ≤ (at_ 2 16 1 0).cfg.cols ∧ (at_ 2 16 1 0).cfg.lines ≤ (at_ 2 16 1 0).row + 1 := by decide
/-- `TabAdvancesToTheNextStop` and `WaitSumsOfTheOperations`: at the left edge and pinned. -/
theorem test_witness_tab :
    (at_ 2 16 0 0).col ≤ (at_ 2 16 0 0).cfg.cols ∧ (at_ 2 16 0 16).col ≤ (at_ 2 16 0 16).cfg.cols := by decide
/-- `BackspaceErasesOrFlashes`: both clauses, the first also when pinned. -/
theorem test_witness_bs :
    (0 < (at_ 2 16 0 16).col ∧ (at_ 2 16 0 16).col ≤ (at_ 2 16 0 16).cfg.cols) ∧
      (0 < (at_ 2 16 0 1).col ∧ (at_ 2 16 0 1).col ≤ (at_ 2 16 0 1).cfg.cols) ∧ (at_ 2 16 1 0).col = 0 := by decide
/-- `ConfigurableBytesHaveTheirValues`: one line and four. -/
theorem test_witness_lines : (at_ 1 80 0 0).cfg.lines ∈ [1, 2, 4] ∧ (at_ 4 20 0 0).cfg.lines ∈ [1, 2, 4] := by decide
/-- `NonStoringInstructionsKeepEveryCell`: aligned, with column 0 and with a pinned cursor (PUTC, NL, TAB). -/
theorem test_witness_non_storing :
    (Aligned (synced 2 16 0 0).display ∧ (synced 2 16 0 0).col = 0) ∧
      Aligned (synced 2 16 0 16).display ∧ (synced 2 16 0 16).col = (synced 2 16 0 16).cfg.cols := by decide
/-- `EngineInvariantIsKept`, `StepRefinesTheClosedForm`, `RowMovesOnlyByNewlineAndHome`, `EventCountsAreBounded`,
`EveryStepSendsOnlyLegalTransfers`: the invariant at the last row's edge, a byte, positive waits, a next state. -/
theorem test_witness_invariant :
    EngineInv (offered (at_ 4 20 3 20) 0x0A#8) ∧ validTiming (offered (at_ 4 20 3 20) 0x0A#8).timing = true ∧
      (offered (at_ 4 20 3 20) 0x0A#8).stream[(offered (at_ 4 20 3 20) 0x0A#8).pc]? = some 0x0A#8 ∧
      ∃ t, step (offered (at_ 4 20 3 20) 0x0A#8) = .next t :=
  ⟨by decide, by decide, by decide, ⟨_, rfl⟩⟩
/-- `RowMovesOnlyByNewlineAndHome`: a row that is not the last. -/
theorem test_witness_row_moves :
    EngineInv (offered (at_ 4 20 2 20) 0x0A#8) ∧
      (next? (step (offered (at_ 4 20 2 20) 0x0A#8))).map (fun t => t.row) = some 3 := by decide
/-- `EventCountsAreBounded`: the branch of ESC_R. -/
theorem test_witness_esc_r :
    EngineInv (offered { at_ 2 16 1 16 with esc := true } 0x52#8) ∧ decodeInput true 0x52#8 = .escR := by decide
/-- `EngineInvariantHoldsAtReset`. -/
theorem test_witness_valid_config : validConfig defaultConfig = true := by decide
/-- `RunIsTheFoldOfReactions`, for two steps. -/
theorem test_witness_run :
    EngineInv { at_ 2 16 0 0 with stream := [0x41#8, 0x0A#8] } ∧
      ({ at_ 2 16 0 0 with stream := [0x41#8, 0x0A#8] } : State).pc + 2 ≤
        ({ at_ 2 16 0 0 with stream := [0x41#8, 0x0A#8] } : State).stream.length := by decide
/-- `PinnedCursorStaysPinned`: a character, a TAB, and NL on the last row. -/
theorem test_witness_pinned :
    EngineInv (offered (at_ 2 16 1 16) 0x41#8) ∧ (offered (at_ 2 16 1 16) 0x41#8).col = 16 ∧
      (∃ t, step (offered (at_ 2 16 1 16) 0x41#8) = .next t) ∧
      decodeInput false 0x41#8 ∉ [.cr, .bs, .ff, .escH, .escR] ∧ decodeInput false 0x09#8 ∉ [.cr, .bs, .ff, .escH, .escR] ∧
      decodeInput false 0x0A#8 ∉ [.cr, .bs, .ff, .escH, .escR] ∧
      ¬ (decodeInput false 0x0A#8 = .nl ∧ (at_ 2 16 1 16).row + 1 < (at_ 2 16 1 16).cfg.lines) :=
  ⟨by decide, by decide, ⟨_, rfl⟩, by decide, by decide, by decide, by decide⟩
/-- `CellAddressesFitSevenBits`, at the largest address. -/
theorem test_witness_visible :
    validConfig (at_ 4 20 0 0).cfg = true ∧ Visible (at_ 4 20 0 0).cfg 3 19 ∧ calcAddr 20 3 19 = 0x67 := by decide
/-- `VisibleCellsHaveDistinctAddresses`: the positions must be the same one. -/
theorem test_witness_same_cell :
    validConfig (at_ 4 20 0 0).cfg = true ∧ Visible (at_ 4 20 0 0).cfg 2 0 ∧ cellAddr 20 2 0 = cellAddr 20 2 0 := by decide
/-- `DdramStaysCanonical`: a canonical memory with entries, and an instruction that stores. -/
theorem test_witness_canonical :
    Memory.wf [(0x00, 0x41#8), (0x7F, 0x42#8)] = true ∧ Memory.wf [(0x01, 0x41#8), (0x01, 0x42#8)] = false ∧
      Memory.wf [(0x80, 0x41#8)] = false ∧
      ∃ t, exec (.data 0x41#8) { synced 2 16 0 0 with
        display := { (synced 2 16 0 0).display with ddram := [(0x00, 0x41#8), (0x7F, 0x42#8)] } } = .next t :=
  ⟨by decide, by decide, by decide, ⟨_, rfl⟩⟩
/-- `BusDisciplineIsKept`, from a trace that is not empty. -/
theorem test_witness_discipline :
    validTiming State.reset.timing = true ∧ busDisciplined false (tx true 0x41#8) = true ∧
      busDisciplined false [.set .e true] = false ∧
      ∃ t, step { offered (at_ 2 16 0 0) 0x41#8 with trace := tx true 0x41#8 } = .next t :=
  ⟨by decide, by decide, by decide, ⟨_, rfl⟩⟩
/-- `EngineNeverReadsTheDisplay`, `EngineNeverReadsPinsOrInit`, `OpenParametersOnlyChangeWaits`. -/
theorem test_witness_exec : (∃ t, exec .nl (at_ 2 16 0 14) = .next t) ∧ ∃ t, exec .escR (at_ 2 16 0 14) = .next t :=
  ⟨⟨_, rfl⟩, ⟨_, rfl⟩⟩
/-- `AlignedDisplayObeysFullTransfers`, with the premises of the address counter's increment. -/
theorem test_witness_aligned :
    Aligned (synced 2 16 0 14).display ∧ (synced 2 16 0 14).display.inc = true ∧
      atRowEnd (synced 2 16 0 14).cfg (synced 2 16 0 14).display.ac = false ∧ atLineEnd (synced 2 16 0 14).display = false := by
  decide
/-- `HalfTransfersReachEveryDisplay`: a display at power-on, and one in 4-bit mode with and without a latched nibble. -/
theorem test_witness_half_transfers :
    State.reset.display.mode4 = false ∧
      ((synced 2 16 0 0).display.mode4 = true ∧ (synced 2 16 0 0).display.half = none) ∧
      ∀ hi : Nibble, (stray hi).display.mode4 = true ∧ (stray hi).display.half = some hi := by decide
/-- `HalfTransfersReachEveryDisplay`: the five classes of the latched nibble are met and shut each other out. -/
theorem test_witness_stray_classes :
    ∀ hi : Nibble, ([decide (hi = 0x0#4), decide (hi = 0x2#4), decide (hi = 0x3#4), decide (0x8 ≤ hi.toNat),
      decide (hi = 0x1#4 ∨ (0x4 ≤ hi.toNat ∧ hi.toNat ≤ 0x7))].filter fun c => c).length = 1 := by decide
/-- `SynchronisationIsKept` and `ScreenFollowsTheCursor`: in the middle of a row. -/
theorem test_witness_synced :
    Synced (offered (synced 4 20 2 7) 0x09#8) ∧
      (offered (synced 4 20 2 7) 0x09#8).stream[(offered (synced 4 20 2 7) 0x09#8).pc]? = some 0x09#8 ∧
      Visible (synced 4 20 2 7).cfg 2 7 ∧ Visible (synced 4 20 2 7).cfg 3 19 ∧
      ∃ t, step (offered (synced 4 20 2 7) 0x09#8) = .next t :=
  ⟨by decide, by decide, by decide, by decide, ⟨_, rfl⟩⟩
/-- `SynchronisationIsKept`: pinned, where the address counter is not tied to the cursor. -/
theorem test_witness_synced_pinned : Synced (offered (synced 2 16 1 16) 0x0D#8) := by decide
/-- `PutcStoresAtTheAddressCounter`. -/
theorem test_witness_putc_store :
    Aligned (synced 2 16 0 15).display ∧ (synced 2 16 0 15).col ≠ (synced 2 16 0 15).cfg.cols ∧ Synced (synced 2 16 0 15) := by
  decide
/-- `PaddingStoresOnlyInTheCurrentRow`: a cell of each range, and an address outside both. -/
theorem test_witness_padding :
    Synced (synced 2 16 0 9) ∧ (synced 2 16 0 9).col ≤ 15 ∧ 15 < (synced 2 16 0 9).cfg.cols ∧
      15 < min (synced 2 16 0 9).cfg.cols ((synced 2 16 0 9).col + (8 - (synced 2 16 0 9).col % 8)) ∧
      ∀ c : Fin 16, 9 ≤ c.val → 0x40#7 ≠ cellAddr 16 0 c.val := by decide
/-- `BackspaceAndFormFeedStore`. -/
theorem test_witness_bs_store :
    Aligned (synced 2 16 0 1).display ∧ 0 < (synced 2 16 0 1).col ∧ (synced 2 16 0 1).col ≤ (synced 2 16 0 1).cfg.cols := by
  decide
/-- `EventsReachTheirLines`, with the default lines, and what `SetD(0xC)` drives there (spec/95 section 2.1). -/
theorem test_witness_lines_of_pins :
    defaultPins.db4 = some 4 ∧ defaultPins.db5 = some 5 ∧ defaultPins.db6 = some 6 ∧ defaultPins.db7 = some 7 ∧
      defaultPins.rs = some 0 ∧ defaultPins.rw = some 1 ∧ defaultPins.e = some 2 ∧ contiguousData defaultPins = true ∧
      lineSets defaultPins (.setD 0xC#4) = [(4, false), (5, false), (6, true), (7, true)] := by decide
/-- `EventsReachTheirLines`, with roles that have no line: their events are dropped (R33). -/
theorem test_witness_no_lines :
    ({ defaultPins with rs := none, rw := none, e := none } : PinAssignment).rs = none ∧
      ({ defaultPins with rs := none, rw := none, e := none } : PinAssignment).rw = none ∧
      ({ defaultPins with rs := none, rw := none, e := none } : PinAssignment).e = none ∧
      lineSets { defaultPins with rw := none } (.set .rw false) = [] ∧
      lineSets { defaultPins with db5 := none } (.setD 0xF#4) = [(4, true), (6, true), (7, true)] := by decide

end Sys2Proof.Tests
end

section
/-! SUPPORT. When the machine takes a step at all: the accepted configurations (00_scope.md R10), and the refusal of every
other one at the fetch (60_exceptions.md R193). -/

namespace Sys2Proof.Machine

/-- `validConfig` tests the four conditions of R10. -/
theorem validConfig_iff (c : DisplayConfig) : validConfig c = true ↔
    (c.lines ∈ [1, 2, 4] ∧ 0 < c.cols ∧ c.lines * c.cols ≤ 80 ∧ c.ifWidth = 4) := by
  simp [validConfig, and_assoc, or_assoc]

/-- With a configuration that is not accepted the fetch refuses, whatever bytes are offered. -/
theorem fetchInstr_of_not_validConfig {s : State} (h : ¬ validConfig s.cfg = true) :
    fetchInstr s = .refuse .invalidConfig := if_neg h

/-- No engine is started with a configuration that is not accepted: the step is refused. -/
theorem step_of_not_validConfig {s : State} (h : ¬ validConfig s.cfg = true) :
    step s = .refused .invalidConfig := by
  rw [step, fetchInstr_of_not_validConfig h]

/-- A step that answers a next state is one of an accepted configuration. -/
theorem validConfig_of_step_next {s t : State} (h : step s = .next t) : validConfig s.cfg = true := by
  by_cases hvalid : validConfig s.cfg = true
  · exact hvalid
  · rw [step_of_not_validConfig hvalid] at h
    cases h

/-- Settles O9: `validConfig` is R10's predicate, and a step with any other configuration is refused at the fetch. -/
theorem configurationIsAcceptedExactly : Obligations.ConfigurationIsAcceptedExactly :=
  ⟨validConfig_iff, fun _ ⟨_, hstep⟩ => validConfig_of_step_next hstep⟩

end Sys2Proof.Machine
end

section
/-! SUPPORT. `calcAddr` row by row (20_memory.md R51, R52): rows 1 and 3 add 0x40, rows 2 and 3 add the column count. -/

namespace Sys2Proof.Machine

@[simp] theorem calcAddr_row_zero (cols col : Nat) : calcAddr cols 0 col = col := rfl

@[simp] theorem calcAddr_row_one (cols col : Nat) : calcAddr cols 1 col = 0x40 + col := by
  simp [calcAddr, Nat.add_comm]

@[simp] theorem calcAddr_row_two (cols col : Nat) : calcAddr cols 2 col = cols + col := by
  simp [calcAddr, Nat.add_comm]

@[simp] theorem calcAddr_row_three (cols col : Nat) : calcAddr cols 3 col = 0x40 + cols + col := by
  simp [calcAddr, Nat.add_comm, Nat.add_left_comm]

/-- Settles O42: R52's cases are the four row lemmas, and its worked values for rows 2 and 3 are those of column 0. -/
theorem calcAddrRowCases : Obligations.CalcAddrRowCases :=
  ⟨fun cols c => ⟨calcAddr_row_zero cols c, calcAddr_row_one cols c, calcAddr_row_two cols c, calcAddr_row_three cols c⟩,
    calcAddr_row_two 16 0, calcAddr_row_three 16 0, calcAddr_row_two 20 0, calcAddr_row_three 20 0⟩

end Sys2Proof.Machine
end

section
/-! SUPPORT. What an input word decodes to (30_encoding.md R70, R71), and the two instructions that only consume their byte
(42_input_interpreter.md R164, R172). -/

namespace Sys2Proof.Machine

/-- The input word made of the flag and the byte is decoded by that flag and that byte. -/
@[simp] theorem decode_in9_word9 (e : Bool) (b : Byte) : decode .in9 (word9 e b) = .ok (decodeInput e b) := by
  obtain ⟨htop, hbyte, -⟩ := Laws.WordFields.of_word9 e b
  rw [decode, htop, hbyte]

/-- The input decoder answers input instructions only, never a bus transfer. -/
@[simp] theorem formatOf_decodeInput (e : Bool) (b : Byte) : formatOf (decodeInput e b) = .in9 := by
  unfold decodeInput
  cases e with
  | true => rw [if_pos rfl]; split_ifs <;> rfl
  | false => rw [if_neg Bool.false_ne_true]; split_ifs <;> rfl

@[simp] theorem exec_drop (b : Byte) (s : State) : exec (.drop b) s = .next { s with pc := s.pc + 1 } := rfl

@[simp] theorem exec_escOther (b : Byte) (s : State) :
    exec (.escOther b) s = .next { s with esc := false, pc := s.pc + 1 } := rfl

/-- Settles O11: every input word decodes within its format, and a byte decoded as DROP or ESC_OTHER runs as that instruction,
which moves PC and the flag alone. -/
theorem unmappedBytesAreIgnored : Obligations.UnmappedBytesAreIgnored := by
  refine ⟨fun e b => ⟨decodeInput e b, decode_in9_word9 e b, formatOf_decodeInput e b⟩, fun s b => ⟨?drop, ?escOther⟩⟩
  case drop =>
    intro hdecode
    rw [hdecode, exec_drop]
  case escOther =>
    intro hdecode
    rw [hdecode, exec_escOther]

end Sys2Proof.Machine
end

section
/-! SUPPORT. The Signal Transmitter as its callers see it (40_signal_transmitter.md R100, R102, R104): what each operation
appends to the trace, how long it takes, the latches it leaves, and that the cursor stays. -/

namespace Sys2Proof.Machine

@[simp] theorem waitTotal_append (l l' : List Event) : waitTotal (l ++ l') = waitTotal l + waitTotal l' := by
  induction l with
  | nil => simp [waitTotal]
  | cons ev l ih => cases ev <;> simp [waitTotal, ih, Nat.add_assoc]

/-! ### strobe (R100) -/

@[simp] theorem waitTotal_strobeEvents : waitTotal strobeEvents = 80 := rfl

/-- Of the latches a strobe writes E alone, which it leaves low. -/
@[simp] theorem strobe_e (s : State) : (strobe s).e = false := rfl
@[simp] theorem strobe_rs (s : State) : (strobe s).rs = s.rs := rfl
@[simp] theorem strobe_rw (s : State) : (strobe s).rw = s.rw := rfl
@[simp] theorem strobe_d (s : State) : (strobe s).d = s.d := rfl

@[simp] theorem strobe_trace (s : State) : (strobe s).trace = s.trace ++ strobeEvents := by
  rw [strobe_spec, emitAll_trace]

@[simp] theorem strobe_pc (s : State) : (strobe s).pc = s.pc := by
  rw [strobe_spec, emitAll_pc]

@[simp] theorem cursorOf_strobe (s : State) : cursorOf (strobe s) = cursorOf s := by
  rw [strobe_spec, cursorOf_emitAll]

/-- Settles O25: `strobe` emits STROBE, and its frame is one law per latch and one for the cursor. -/
theorem strobeIsFiveEvents : Obligations.StrobeIsFiveEvents := fun s =>
  ⟨rfl, waitTotal_strobeEvents, strobe_spec s, strobe_trace s, strobe_e s, strobe_rs s, strobe_rw s, strobe_d s,
    cursorOf_strobe s, strobe_pc s⟩

/-! ### output (R102): two strobes, the upper nibble first -/

@[simp] theorem waitTotal_tx (r : Bool) (b : Byte) : waitTotal (tx r b) = 160 := by
  simp [tx, waitTotal]

@[simp] theorem output_trace (r : Bool) (b : Byte) (s : State) : (output r b s).trace = s.trace ++ tx r b := by
  rw [output_spec, emitAll_trace]

@[simp] theorem output_rw (r : Bool) (b : Byte) (s : State) : (output r b s).rw = false := by
  simp [output]

@[simp] theorem output_rs (r : Bool) (b : Byte) (s : State) : (output r b s).rs = r := by
  simp [output]

@[simp] theorem output_d (r : Bool) (b : Byte) (s : State) : (output r b s).d = loNibble b := by
  simp [output]

@[simp] theorem output_e (r : Bool) (b : Byte) (s : State) : (output r b s).e = false := by
  simp [output]

@[simp] theorem cursorOf_output (r : Bool) (b : Byte) (s : State) : cursorOf (output r b s) = cursorOf s := by
  rw [output_spec, cursorOf_emitAll]

/-- Settles O26: `output` emits TX, whose latches are those of its second strobe. -/
theorem outputIsFourteenEvents : Obligations.OutputIsFourteenEvents := fun s r b =>
  ⟨rfl, waitTotal_tx r b, output_trace r b s, output_spec r b s, output_rw r b s, output_rs r b s, output_d r b s,
    output_e r b s, cursorOf_output r b s⟩

/-! ### outputUpperNibbleOnly (R104): one strobe -/

@[simp] theorem waitTotal_txu (r : Bool) (b : Byte) : waitTotal (txu r b) = 80 := by
  simp [txu, waitTotal]

@[simp] theorem outputUpperNibbleOnly_trace (r : Bool) (b : Byte) (s : State) :
    (outputUpperNibbleOnly r b s).trace = s.trace ++ txu r b := by
  rw [outputUpperNibbleOnly_spec, emitAll_trace]

@[simp] theorem outputUpperNibbleOnly_rw (r : Bool) (b : Byte) (s : State) :
    (outputUpperNibbleOnly r b s).rw = false := by
  simp [outputUpperNibbleOnly]

@[simp] theorem outputUpperNibbleOnly_rs (r : Bool) (b : Byte) (s : State) :
    (outputUpperNibbleOnly r b s).rs = r := by
  simp [outputUpperNibbleOnly]

@[simp] theorem outputUpperNibbleOnly_d (r : Bool) (b : Byte) (s : State) :
    (outputUpperNibbleOnly r b s).d = hiNibble b := by
  simp [outputUpperNibbleOnly]

@[simp] theorem outputUpperNibbleOnly_e (r : Bool) (b : Byte) (s : State) :
    (outputUpperNibbleOnly r b s).e = false := by
  simp [outputUpperNibbleOnly]

/-- The byte enters through its upper nibble alone. -/
theorem outputUpperNibbleOnly_congr {b b' : Byte} (h : hiNibble b' = hiNibble b) (r : Bool) (s : State) :
    outputUpperNibbleOnly r b' s = outputUpperNibbleOnly r b s := by
  rw [outputUpperNibbleOnly, h, outputUpperNibbleOnly]

/-- Settles O27: `outputUpperNibbleOnly` emits TXU, and the byte enters through its upper nibble alone. -/
theorem upperNibbleOutputIsEightEvents : Obligations.UpperNibbleOutputIsEightEvents := fun s r b =>
  ⟨rfl, waitTotal_txu r b, outputUpperNibbleOnly_spec r b s, outputUpperNibbleOnly_trace r b s,
    outputUpperNibbleOnly_rw r b s, outputUpperNibbleOnly_rs r b s, outputUpperNibbleOnly_d r b s,
    outputUpperNibbleOnly_e r b s, fun _ hnibble => outputUpperNibbleOnly_congr hnibble r s⟩

end Sys2Proof.Machine
end

section
/-! SUPPORT. PUTC and the loops of it, at the right edge and short of it (41_display_ops.md R122, R123, R134). -/

namespace Sys2Proof.Machine

/-- Events leave the cursor and PC, so putting the old ones back with another column writes the column alone. -/
theorem withCursor_col_emitAll (c : Nat) (l : List Event) (s : State) :
    withCursor { cursorOf s with col := c } s.pc (emitAll l s) = { emitAll l s with col := c } := by
  simp [withCursor, cursorOf]

@[simp] theorem exec_putc (ch : Byte) (s : State) : exec (.putc ch) s = .next (advancePc (opPutc ch s)) := rfl

@[simp] theorem exec_tab (s : State) : exec .tab s = .next (advancePc (opTab s)) := rfl

/-- Pinned, PUTC does nothing (R123 a). -/
theorem opPutc_of_pinned {s : State} (h : s.col = s.cfg.cols) (ch : Byte) : opPutc ch s = s := by
  rw [opPutc_spec, if_pos h]

/-- Short of the edge, PUTC is its events and one column (R123 b). -/
theorem opPutc_of_not_pinned {s : State} (h : s.col ≠ s.cfg.cols) (ch : Byte) :
    opPutc ch s = { emitAll (writeEvents ch) s with col := s.col + 1 } := by
  rw [opPutc_spec, if_neg h, withCursor_col_emitAll]

/-- Settles O16: PUTC's two branches; from the last column the second one pins the cursor. -/
theorem putcWritesUnlessPinned : Obligations.PutcWritesUnlessPinned := by
  refine fun s ch => ⟨?pinned, ?writes, ?lastColumn⟩
  case pinned =>
    intro h
    rw [exec_putc, opPutc_of_pinned h]
    exact ⟨rfl, rfl⟩
  case writes =>
    intro h
    rw [exec_putc, opPutc_of_not_pinned h, advancePc, emitAll_pc]
    exact ⟨rfl, rfl⟩
  case lastColumn =>
    intro h
    rw [opPutc_of_not_pinned (by omega)]
    exact h

/-! ### The loops of PUTC -/

theorem length_padEvents (k : Nat) : (padEvents k).length = 15 * k := by
  induction k with
  | zero => rfl
  | succ k ih =>
    have hwrite : (writeEvents 0x20#8).length = 15 := rfl
    rw [padEvents_succ, List.length_append, hwrite, ih]
    omega

theorem waitTotal_padEvents (k : Nat) : waitTotal (padEvents k) = 200 * k := by
  induction k with
  | zero => rfl
  | succ k ih =>
    have hwrite : waitTotal (writeEvents 0x20#8) = 200 := rfl
    rw [padEvents_succ, waitTotal_append, hwrite, ih]
    omega

theorem padSpaces_add (j k : Nat) (s : State) : padSpaces (j + k) s = padSpaces k (padSpaces j s) := by
  induction j generalizing s with
  | zero => rw [Nat.zero_add, padSpaces]
  | succ j ih => rw [Nat.succ_add, padSpaces, ih, padSpaces]

theorem padSpaces_of_pinned {s : State} (h : s.col = s.cfg.cols) (k : Nat) : padSpaces k s = s := by
  induction k with
  | zero => rfl
  | succ k ih => rw [padSpaces, opPutc_of_pinned h, ih]

/-- Turns of the loop past the right edge do nothing: the ones that fit pin the cursor, and the rest leave it (R123 a). -/
theorem padSpaces_eq_clamped (k : Nat) (s : State) (h : s.col ≤ s.cfg.cols) :
    padSpaces k s = padSpaces (min k (s.cfg.cols - s.col)) s := by
  rcases Nat.le_total k (s.cfg.cols - s.col) with hfits | hpast
  · rw [Nat.min_eq_left hfits]
  · have hpinned : (padSpaces (s.cfg.cols - s.col) s).col = (padSpaces (s.cfg.cols - s.col) s).cfg.cols := by
      rw [padSpaces_spec _ s (by omega)]
      simp [withCursor, Nat.add_sub_cancel' h]
    rw [Nat.min_eq_right hpast]
    calc padSpaces k s
        = padSpaces (s.cfg.cols - s.col + (k - (s.cfg.cols - s.col))) s := by rw [Nat.add_sub_cancel' hpast]
      _ = padSpaces (k - (s.cfg.cols - s.col)) (padSpaces (s.cfg.cols - s.col) s) := padSpaces_add _ _ s
      _ = padSpaces (s.cfg.cols - s.col) s := padSpaces_of_pinned hpinned _

/-- The clamped loop of TAB answers the state of the loop of `8 - COL mod 8` turns (R134). -/
theorem opTab_eq_padSpaces {s : State} (h : s.col ≤ s.cfg.cols) : opTab s = padSpaces (8 - s.col % 8) s :=
  (padSpaces_eq_clamped _ s h).symm

/-- Settles O22: TAB is a loop of spaces that fit into the row, and further turns of the loop do nothing. -/
theorem tabAdvancesToTheNextStop : Obligations.TabAdvancesToTheNextStop := by
  refine ⟨by decide, fun k => ⟨length_padEvents k, waitTotal_padEvents k⟩, fun s h => ⟨?clamped, ?loop⟩⟩
  case clamped => rw [exec_tab, opTab_spec s h, withCursor_col_emitAll, advancePc, emitAll_pc]
  case loop => rw [exec_tab, opTab_eq_padSpaces h]

end Sys2Proof.Machine
end

section
/-! SUPPORT. The escape byte and its cancellation (42_input_interpreter.md R161, R164). -/

namespace Sys2Proof.Machine

/-- Under ESC = 1 every byte but 'R' and 'H' is ESC_OTHER (R73). -/
theorem decodeInput_true_of_ne {b : Byte} (hR : b ≠ 0x52#8) (hH : b ≠ 0x48#8) : decodeInput true b = .escOther b := by
  rw [decodeInput, if_pos rfl, if_neg hR, if_neg hH]

@[simp] theorem exec_esc (s : State) : exec .esc s = .next { s with esc := true, pc := s.pc + 1 } := rfl

/-- Settles O14: what the two bytes decode to, and the meaning of each instruction as one write of the flag and PC. -/
theorem escapePrefixOnlyMovesTheFlag : Obligations.EscapePrefixOnlyMovesTheFlag :=
  ⟨rfl, fun _ => decodeInput_true_of_ne, fun s b => ⟨exec_esc s, exec_escOther b s⟩⟩

end Sys2Proof.Machine
end

section
/-! SUPPORT. What a display operation can do, and with it an input instruction: write the cursor and emit events, neither of
which depends on the trace so far (41_display_ops.md; 42_input_interpreter.md R160). -/

namespace Sys2Proof.Machine

/-- `s` with another trace. -/
def withTrace (l : List Event) (s : State) : State := { s with trace := l }

@[simp] theorem withTrace_trace (l : List Event) (s : State) : (withTrace l s).trace = l := rfl

@[simp] theorem withCursor_trace (c : Cursor) (pc : Nat) (s : State) : (withCursor c pc s).trace = s.trace := rfl

/-- The cursor, PC and the trace are apart: they can be written in either order. -/
theorem withCursor_withTrace (c : Cursor) (pc : Nat) (l : List Event) (s : State) :
    withCursor c pc (withTrace l s) = withTrace l (withCursor c pc s) := rfl

theorem advancePc_withCursor (c : Cursor) (pc : Nat) (s : State) :
    advancePc (withCursor c pc s) = withCursor c (pc + 1) s := rfl

/-- No event looks at the trace: emitting appends to it, and the rest is as from any other trace (R13). -/
theorem emitAll_withTrace (evs l : List Event) (s : State) :
    emitAll evs (withTrace l s) = withTrace (l ++ evs) (emitAll evs s) := by
  induction evs generalizing l s with
  | nil => simp [withTrace]
  | cons ev evs ih =>
    have hemit : emit ev (withTrace l s) = withTrace (l ++ [ev]) (emit ev s) := by
      rcases ev with ⟨⟨⟩, _⟩ | _ | _ <;> rfl
    rw [emitAll_cons, hemit, ih, emitAll_cons, List.append_assoc, List.singleton_append]

/-- From `s` the operation `f` writes a cursor and emits events, the same ones whatever the trace holds. -/
def EmitsFrom (f : State → State) (s : State) : Prop :=
  ∃ (c : Cursor) (evs : List Event), ∀ l, f (withTrace l s) = withCursor c s.pc (emitAll evs (withTrace l s))

/-- Such operations compose: the second one's events follow the first one's. -/
theorem EmitsFrom.comp {f g : State → State} {s : State} (hf : EmitsFrom f s) (hg : ∀ t, EmitsFrom g t) :
    EmitsFrom (fun t => g (f t)) s := by
  obtain ⟨c, evs, hf⟩ := hf
  obtain ⟨c', evs', hg⟩ := hg (withCursor c s.pc (emitAll evs s))
  have hmid (l : List Event) : withCursor c s.pc (emitAll evs (withTrace l s)) =
      withTrace (l ++ evs) (withCursor c s.pc (emitAll evs s)) := by
    rw [emitAll_withTrace, withCursor_withTrace]
  refine ⟨c', evs ++ evs', fun l => ?_⟩
  calc g (f (withTrace l s))
      = g (withTrace (l ++ evs) (withCursor c s.pc (emitAll evs s))) := by rw [hf, hmid]
    _ = withCursor c' s.pc (emitAll evs' (withTrace (l ++ evs) (withCursor c s.pc (emitAll evs s)))) := hg _
    _ = withCursor c' s.pc (emitAll evs' (withCursor c s.pc (emitAll evs (withTrace l s)))) := by rw [hmid]
    _ = withCursor c' s.pc (emitAll (evs ++ evs') (withTrace l s)) := by
      rw [emitAll_withCursor, withCursor_withCursor, emitAll_append]

/-- What `f` does from `s` may be told by another operation that agrees with it there. -/
theorem EmitsFrom.congr {f g : State → State} {s : State} (hg : EmitsFrom g s)
    (hfg : ∀ l, f (withTrace l s) = g (withTrace l s)) : EmitsFrom f s := by
  obtain ⟨c, evs, hg⟩ := hg
  exact ⟨c, evs, fun l => (hfg l).trans (hg l)⟩

/-! ### The registers and the nine operations -/

theorem emitsFrom_id (s : State) : EmitsFrom (fun t => t) s := ⟨cursorOf s, [], fun _ => rfl⟩

theorem emitsFrom_setRow (v : Nat) (s : State) : EmitsFrom (setRow v) s :=
  ⟨{ cursorOf s with row := v }, [], fun _ => rfl⟩

theorem emitsFrom_setCol (v : Nat) (s : State) : EmitsFrom (setCol v) s :=
  ⟨{ cursorOf s with col := v }, [], fun _ => rfl⟩

theorem emitsFrom_setEsc (v : Bool) (s : State) : EmitsFrom (setEsc v) s :=
  ⟨{ cursorOf s with esc := v }, [], fun _ => rfl⟩

theorem emitsFrom_emitAll (evs : List Event) (s : State) : EmitsFrom (emitAll evs) s :=
  ⟨cursorOf s, evs, fun l => emitAll_self evs (withTrace l s)⟩

theorem emitsFrom_reposition (s : State) : EmitsFrom reposition s :=
  (emitsFrom_emitAll (repositionEvents s.cfg.cols s.row s.col) s).congr fun l => reposition_spec (withTrace l s)

theorem emitsFrom_opFlash (s : State) : EmitsFrom opFlash s :=
  (emitsFrom_emitAll (flashEvents s.cfg s.timing) s).congr fun l => opFlash_spec (withTrace l s)

theorem emitsFrom_opClear (s : State) : EmitsFrom opClear s :=
  ⟨{ cursorOf s with row := 0, col := 0 }, cmdEvents 0x01#8 2000, fun l => opClear_spec (withTrace l s)⟩

theorem emitsFrom_opHome (s : State) : EmitsFrom opHome s :=
  ⟨{ cursorOf s with row := 0, col := 0 }, cmdEvents 0x02#8 2000, fun l => opHome_spec (withTrace l s)⟩

theorem emitsFrom_opReset (s : State) : EmitsFrom opReset s :=
  ⟨{ row := 0, col := 0, esc := s.esc, init := true }, resetEvents s.cfg s.timing, fun l => opReset_spec (withTrace l s)⟩

theorem emitsFrom_opCr (s : State) : EmitsFrom opCr s := (emitsFrom_setCol 0 s).comp emitsFrom_reposition

theorem emitsFrom_opPutc (ch : Byte) (s : State) : EmitsFrom (opPutc ch) s := by
  by_cases hpinned : s.col = s.cfg.cols
  · exact (emitsFrom_id s).congr fun l => opPutc_of_pinned (s := withTrace l s) hpinned ch
  · exact ⟨{ cursorOf s with col := s.col + 1 }, writeEvents ch, fun l =>
      (opPutc_spec ch (withTrace l s)).trans (if_neg hpinned)⟩

theorem emitsFrom_padSpaces (k : Nat) (s : State) : EmitsFrom (padSpaces k) s := by
  induction k generalizing s with
  | zero => exact emitsFrom_id s
  | succ k ih => exact (emitsFrom_opPutc space s).comp ih

theorem emitsFrom_opTab (s : State) : EmitsFrom opTab s :=
  (emitsFrom_padSpaces (tabWidth s.cfg.cols s.col) s).congr fun _ => rfl

/-- The second half of NL: the next row, except on the last one (R132). -/
theorem emitsFrom_nextRow (s : State) :
    EmitsFrom (fun t => if notLastRow t then reposition (setCol 0 (setRow (t.row + 1) t)) else t) s := by
  by_cases hrow : notLastRow s = true
  · exact (((emitsFrom_setRow (s.row + 1) s).comp (emitsFrom_setCol 0)).comp emitsFrom_reposition).congr
      fun _ => if_pos hrow
  · exact (emitsFrom_id s).congr fun _ => if_neg hrow

theorem emitsFrom_opNl (s : State) : EmitsFrom opNl s :=
  ((emitsFrom_padSpaces (s.cfg.cols - s.col) s).comp emitsFrom_nextRow).congr fun _ => rfl

/-- The move BKSP makes before and after its space (R138). -/
theorem emitsFrom_moveLeft (s : State) : EmitsFrom (fun t => reposition (setCol (t.col - 1) t)) s :=
  ((emitsFrom_setCol (s.col - 1) s).comp emitsFrom_reposition).congr fun _ => rfl

theorem emitsFrom_opBksp (s : State) : EmitsFrom opBksp s := by
  by_cases hcol : pastLeft s = true
  · exact (((emitsFrom_moveLeft s).comp (emitsFrom_opPutc space)).comp emitsFrom_moveLeft).congr fun _ => if_pos hcol
  · exact (emitsFrom_opFlash s).congr fun _ => if_neg hcol

/-- An input instruction is one such operation, and then the byte is consumed (R24, R160). -/
theorem exec_eq_advancePc_of_in9 (i : Instr) (h : formatOf i = .in9) :
    ∃ f, (∀ s, EmitsFrom f s) ∧ ∀ s, exec i s = .next (advancePc (f s)) := by
  cases i with
  | esc => exact ⟨_, emitsFrom_setEsc true, fun _ => rfl⟩
  | escR => exact ⟨_, fun s => (emitsFrom_setEsc false s).comp emitsFrom_opReset, fun _ => rfl⟩
  | escH => exact ⟨_, fun s => (emitsFrom_setEsc false s).comp emitsFrom_opHome, fun _ => rfl⟩
  | escOther b => exact ⟨_, emitsFrom_setEsc false, fun _ => rfl⟩
  | nl => exact ⟨_, emitsFrom_opNl, fun _ => rfl⟩
  | cr => exact ⟨_, emitsFrom_opCr, fun _ => rfl⟩
  | tab => exact ⟨_, emitsFrom_opTab, fun _ => rfl⟩
  | bel => exact ⟨_, emitsFrom_opFlash, fun _ => rfl⟩
  | bs => exact ⟨_, emitsFrom_opBksp, fun _ => rfl⟩
  | ff => exact ⟨_, emitsFrom_opClear, fun _ => rfl⟩
  | putc b => exact ⟨_, emitsFrom_opPutc b, fun _ => rfl⟩
  | drop b => exact ⟨_, emitsFrom_id, fun _ => rfl⟩
  | wake | mode4 | fset | doff | don | entry | clr | homec | setaddr | data => cases h

end Sys2Proof.Machine
end

section
/-! SUPPORT. The step and the run as R160 writes them: one byte through `stepByte`, several bytes one after the other. -/

namespace Sys2Proof.Machine

theorem isPrintable_iff (b : Byte) : isPrintable b = true ↔ 0x20 ≤ b.toNat ∧ b.toNat ≤ 0x7E := by
  simp [isPrintable]

/-- The decoder and the dispatch test the byte in the order of R160's pseudocode. -/
theorem exec_decodeInput (b : Byte) (s : State) : exec (decodeInput s.esc b) s = .next (stepByte b s) := by
  unfold decodeInput stepByte
  simp only [isPrintable_iff]
  by_cases hesc : s.esc = true
  · rw [if_pos hesc, if_pos hesc]
    split_ifs <;> rfl
  · rw [if_neg hesc, if_neg hesc]
    split_ifs <;> rfl

/-- The engine takes the byte at index PC (R24). -/
theorem step_of_byte {s : State} {b : Byte} (hvalid : validConfig s.cfg = true) (hbyte : s.stream[s.pc]? = some b) :
    step s = exec (decodeInput s.esc b) s := by
  have hfetch : fetchInstr s = .run (decodeInput s.esc b) := by
    rw [fetchInstr, if_pos hvalid, hbyte]
  rw [step, hfetch]

theorem step_eq_stepByte {s : State} {b : Byte} (hvalid : validConfig s.cfg = true)
    (hbyte : s.stream[s.pc]? = some b) : step s = .next (stepByte b s) :=
  (step_of_byte hvalid hbyte).trans (exec_decodeInput b s)

/-- One byte writes the cursor, consumes itself and emits events, and the trace so far plays no part (R13, R160). -/
theorem stepByte_withTrace (b : Byte) (s : State) : ∃ (c : Cursor) (evs : List Event),
    ∀ l, stepByte b (withTrace l s) = withCursor c (s.pc + 1) (emitAll evs (withTrace l s)) := by
  obtain ⟨f, hf, hexec⟩ := exec_eq_advancePc_of_in9 (decodeInput s.esc b) (formatOf_decodeInput s.esc b)
  obtain ⟨c, evs, hevs⟩ := hf s
  refine ⟨c, evs, fun l => ?_⟩
  have hstep : stepByte b (withTrace l s) = advancePc (f (withTrace l s)) :=
    Host.Outcome.next.inj ((exec_decodeInput b (withTrace l s)).symm.trans (hexec (withTrace l s)))
  rw [hstep, hevs, advancePc_withCursor]

/-- A byte's events are those it has from an empty trace (R160). -/
theorem stepByte_trace (b : Byte) (s : State) :
    (stepByte b s).trace = s.trace ++ (stepByte b (withTrace [] s)).trace := by
  obtain ⟨c, evs, hevs⟩ := stepByte_withTrace b s
  have htrace (l : List Event) : (stepByte b (withTrace l s)).trace = l ++ evs := by
    rw [hevs, withCursor_trace, emitAll_trace, withTrace_trace]
  calc (stepByte b s).trace
      = s.trace ++ evs := htrace s.trace
    _ = s.trace ++ (stepByte b (withTrace [] s)).trace := by rw [htrace, List.nil_append]

/-- What the next step reads besides the flag: the configuration and the input stay, and PC is at the next byte. -/
theorem stepByte_keeps (b : Byte) (s : State) :
    (stepByte b s).cfg = s.cfg ∧ (stepByte b s).stream = s.stream ∧ (stepByte b s).pc = s.pc + 1 := by
  obtain ⟨c, evs, hevs⟩ := stepByte_withTrace b s
  have hstep : stepByte b s = withCursor c (s.pc + 1) (emitAll evs s) := hevs s.trace
  rw [hstep]
  exact ⟨emitAll_cfg evs s, emitAll_stream evs s, rfl⟩

/-- As far as bytes are offered, a run is its bytes in order (R160). -/
theorem run_eq_foldl_stepByte (k : Nat) (s : State) (hvalid : validConfig s.cfg = true)
    (hk : s.pc + k ≤ s.stream.length) :
    Sys2Proof.core.run k s = .next (((s.stream.drop s.pc).take k).foldl (fun t b => stepByte b t) s : State) := by
  induction k generalizing s with
  | zero => rfl
  | succ k ih =>
    have hpc : s.pc < s.stream.length := by omega
    have hstep : step s = .next (stepByte s.stream[s.pc] s) :=
      step_eq_stepByte hvalid (List.getElem?_eq_getElem hpc)
    obtain ⟨hcfg, hstream, hnext⟩ := stepByte_keeps s.stream[s.pc] s
    rw [run_succ_of_next (M := Sys2Proof.core) k hstep, ih _ (by rwa [hcfg]) (by rw [hstream, hnext]; omega),
      List.drop_eq_getElem_cons hpc, List.take_succ_cons, List.foldl_cons, hstream, hnext]

/-- Settles O10: the step is `stepByte` of its byte, whose events do not depend on the trace so far, and a run is the fold of
its bytes, by induction on the number of steps. -/
theorem stepFollowsThePseudocode : Obligations.StepFollowsThePseudocode := fun s hvalid =>
  ⟨fun _ => step_eq_stepByte hvalid, fun b => stepByte_trace b s, fun k => run_eq_foldl_stepByte k s hvalid⟩

end Sys2Proof.Machine
end

section
/-! SUPPORT. The decoder against the encoder, format by format (30_encoding.md sections 1, 6, 7 and 8). -/

namespace Sys2Proof.Machine

/-! ### Input words -/

/-- No control character and not ESC is printable (R72, R74). -/
theorem isMapped_of_isPrintable : ∀ b : Byte, isPrintable b = true → isMapped b = false := by decide

/-- Past the mapped bytes only the test for a printable byte is left (R71). -/
theorem decodeInput_of_not_isMapped {b : Byte} (h : isMapped b = false) :
    decodeInput false b = if isPrintable b then .putc b else .drop b := by
  simp only [isMapped, Bool.or_eq_false_iff, beq_eq_false_iff_ne] at h
  simp [decodeInput, h]

theorem decodeInput_of_isPrintable {b : Byte} (h : isPrintable b = true) : decodeInput false b = .putc b := by
  rw [decodeInput_of_not_isMapped (isMapped_of_isPrintable b h), if_pos h]

/-- What the input decoder reads has the flag and the byte it was read from, and is well formed. -/
theorem decodeInput_sound (e : Bool) (b : Byte) :
    topBitOf (decodeInput e b) = e ∧ byteOf (decodeInput e b) = b ∧ WellFormed (decodeInput e b) = true := by
  unfold decodeInput
  cases e with
  | true =>
    rw [if_pos rfl]
    split_ifs <;> simp_all [topBitOf, byteOf, WellFormed]
  | false =>
    rw [if_neg Bool.false_ne_true]
    split_ifs <;> simp_all [topBitOf, byteOf, WellFormed, isMapped]

/-- A well-formed input instruction is read back from its flag and its byte. -/
theorem decodeInput_complete {i : Instr} (hwf : WellFormed i = true) (hin : formatOf i = .in9) :
    decodeInput (topBitOf i) (byteOf i) = i := by
  cases i with
  | esc | escR | escH | nl | cr | tab | bel | bs | ff => rfl
  | escOther b =>
    simp only [WellFormed, Bool.and_eq_true, bne_iff_ne] at hwf
    exact decodeInput_true_of_ne hwf.1 hwf.2
  | putc b => exact decodeInput_of_isPrintable hwf
  | drop b =>
    simp only [WellFormed, Bool.and_eq_true, Bool.not_eq_true'] at hwf
    obtain ⟨hmapped, hprintable⟩ := hwf
    simp [topBitOf, byteOf, decodeInput_of_not_isMapped hmapped, hprintable]
  | wake | mode4 | fset | doff | don | entry | clr | homec | setaddr | data => cases hin

/-! ### Bus words -/

/-- A word is its top bit and its byte (R15). -/
theorem word9_eta : ∀ w : Word9, word9 (w.getLsbD 8) (w.extractLsb' 0 8) = w := by decide

theorem encode_eq_iff (i : Instr) (w : Word9) :
    encode i = w ↔ topBitOf i = w.getLsbD 8 ∧ byteOf i = w.extractLsb' 0 8 := by
  obtain ⟨htop, hbyte, -⟩ := Laws.WordFields.of_word9 (topBitOf i) (byteOf i)
  constructor
  · rintro rfl
    exact ⟨htop.symm, hbyte.symm⟩
  · rintro ⟨ht, hb⟩
    rw [encode, ht, hb, word9_eta]

theorem encode_setaddr_of_bits : ∀ w : Word9, w.getLsbD 8 = false → w.getLsbD 7 = true →
    encode (.setaddr (w.extractLsb' 0 7)) = w := by decide

theorem encode_don_of_bits : ∀ w : Word9, w.extractLsb' 2 7 = 0x03#7 →
    encode (.don (w.getLsbD 1) (w.getLsbD 0)) = w := by decide

theorem encode_fset_of_bits : ∀ w : Word9, w.extractLsb' 4 5 = 0x02#5 ∧ w.extractLsb' 0 2 = 0#2 →
    encode (.fset (w.getLsbD 3) (w.getLsbD 2)) = w := by decide

theorem encode_wake_of_bits : ∀ w : Word9, w.extractLsb' 4 5 = 0x03#5 →
    encode (.wake (w.extractLsb' 0 4)) = w := by decide

theorem encode_mode4_of_bits : ∀ w : Word9, w.extractLsb' 4 5 = 0x02#5 →
    encode (.mode4 (w.extractLsb' 0 4)) = w := by decide

/-- What the decoder of full transfers reads has that format and encodes to the word (R84 to R90). -/
theorem decodeBusFull_sound {w : Word9} {i : Instr} (h : decodeBusFull w = .ok i) :
    formatOf i = .busFull ∧ encode i = w := by
  unfold decodeBusFull at h
  split_ifs at h with hdata haddr hclr hhome hentry hoff hon hfset <;> cases h
  · exact ⟨rfl, (encode_eq_iff _ _).2 ⟨hdata.symm, rfl⟩⟩
  · exact ⟨rfl, encode_setaddr_of_bits w (Bool.eq_false_of_not_eq_true hdata) haddr⟩
  · exact ⟨rfl, hclr.symm⟩
  · exact ⟨rfl, hhome.symm⟩
  · exact ⟨rfl, hentry.symm⟩
  · exact ⟨rfl, hoff.symm⟩
  · exact ⟨rfl, encode_don_of_bits w hon⟩
  · exact ⟨rfl, encode_fset_of_bits w hfset⟩

/-- The same for half transfers (R83). -/
theorem decodeBusHalf_sound {w : Word9} {i : Instr} (h : decodeBusHalf w = .ok i) :
    formatOf i = .busHalf ∧ encode i = w := by
  unfold decodeBusHalf at h
  split_ifs at h with hwake hmode4 <;> cases h
  · exact ⟨rfl, encode_wake_of_bits w hwake⟩
  · exact ⟨rfl, encode_mode4_of_bits w hmode4⟩

theorem decode_setaddr : ∀ a : Addr, decode .busFull (encode (.setaddr a)) = .ok (.setaddr a) := by decide

theorem decode_half : ∀ lo : Nibble, decode .busHalf (encode (.wake lo)) = .ok (.wake lo) ∧
    decode .busHalf (encode (.mode4 lo)) = .ok (.mode4 lo) := by decide

theorem decode_flags : ∀ x y : Bool, decode .busFull (encode (.fset x y)) = .ok (.fset x y) ∧
    decode .busFull (encode (.don x y)) = .ok (.don x y) := by decide

theorem decode_busFull_true (b : Byte) : decode .busFull (word9 true b) = .ok (.data b) := by
  obtain ⟨htop, hbyte, -⟩ := Laws.WordFields.of_word9 true b
  rw [decode, decodeBusFull, if_pos htop, hbyte]

/-- Settles O1: an input instruction is read back from its flag and byte, a bus instruction by the test of its own bits. -/
theorem decodeOfEncodeIsIdentity : Obligations.DecodeOfEncodeIsIdentity := by
  intro i hwf
  cases i with
  | esc | escR | escH | escOther | nl | cr | tab | bel | bs | ff | putc | drop =>
    exact (decode_in9_word9 _ _).trans (congrArg _ (decodeInput_complete hwf rfl))
  | wake lo => exact (decode_half lo).1
  | mode4 lo => exact (decode_half lo).2
  | fset n f => exact (decode_flags n f).1
  | don c b => exact (decode_flags c b).2
  | doff | entry | clr | homec => rfl
  | setaddr a => exact decode_setaddr a
  | data ch => exact decode_busFull_true ch

/-- Settles O2: one soundness law per format. -/
theorem encodeOfDecodeIsIdentity : Obligations.EncodeOfDecodeIsIdentity := by
  intro f w i h
  cases f with
  | in9 =>
    cases h
    obtain ⟨htop, hbyte, hwf⟩ := decodeInput_sound (w.getLsbD 8) (w.extractLsb' 0 8)
    exact ⟨formatOf_decodeInput _ _, (encode_eq_iff _ _).2 ⟨htop, hbyte⟩, fun _ => hwf⟩
  | busFull =>
    obtain ⟨hformat, hword⟩ := decodeBusFull_sound h
    exact ⟨hformat, hword, nofun⟩
  | busHalf =>
    obtain ⟨hformat, hword⟩ := decodeBusHalf_sound h
    exact ⟨hformat, hword, nofun⟩

/-! ### Which words are accepted -/

theorem exists_eq_ok_iff {ε α : Type} (x : Except ε α) : (∃ i, x = .ok i) ↔ x.isOk = true := by
  cases x with
  | ok i => exact ⟨fun _ => rfl, fun _ => ⟨i, rfl⟩⟩
  | error e => exact ⟨nofun, nofun⟩

/-- The command bytes that a full transfer may carry (R84 to R89). -/
theorem isOk_busFull_false : ∀ b : Byte, (decode .busFull (word9 false b)).isOk = true ↔
    b ∈ [0x01#8, 0x02#8, 0x06#8, 0x08#8, 0x0C#8, 0x0D#8, 0x0E#8, 0x0F#8, 0x20#8, 0x24#8, 0x28#8, 0x2C#8] ∨
      0x80 ≤ b.toNat := by decide

/-- The nibbles that a half transfer may carry (R83). -/
theorem isOk_busHalf : ∀ (r : Bool) (b : Byte), (decode .busHalf (word9 r b)).isOk = true ↔
    r = false ∧ (b.extractLsb' 4 4 = 0x2#4 ∨ b.extractLsb' 4 4 = 0x3#4) := by decide

/-- Settles O3: input words and DATA words always decode; the accepted command bytes and nibbles are counted out. -/
theorem onlyUnsentBusWordsAreRejected : Obligations.OnlyUnsentBusWordsAreRejected :=
  ⟨fun _ => ⟨_, rfl⟩, fun b => ⟨_, decode_busFull_true b⟩,
    fun b => (exists_eq_ok_iff _).trans (isOk_busFull_false b), fun r b => (exists_eq_ok_iff _).trans (isOk_busHalf r b)⟩

/-- Settles O4: each word is decoded by evaluation. -/
theorem writtenOutWordsDecode : Obligations.WrittenOutWordsDecode := by
  unfold Obligations.WrittenOutWordsDecode
  decide

/-- DROP is what is left under ESC = 0 when a byte is neither mapped nor printable (R75). -/
theorem decodeInput_eq_drop_iff (b : Byte) :
    decodeInput false b = .drop b ↔ isMapped b = false ∧ isPrintable b = false := by
  constructor
  · intro h
    obtain ⟨-, -, hwf⟩ := decodeInput_sound false b
    rw [h] at hwf
    simpa [WellFormed] using hwf
  · rintro ⟨hmapped, hprintable⟩
    simp [decodeInput_of_not_isMapped hmapped, hprintable]

theorem isMapped_iff (b : Byte) : isMapped b = true ↔ b.toNat ∈ [0x07, 0x08, 0x09, 0x0A, 0x0C, 0x0D, 0x1B] := by
  simp [isMapped, BitVec.toNat_eq, or_assoc]

/-- Settles O5: the bytes neither mapped nor printable, read as numbers. -/
theorem dropClassIsTheUnmappedBytes : Obligations.DropClassIsTheUnmappedBytes := by
  intro b
  have hmapped := isMapped_iff b
  have hprintable := isPrintable_iff b
  simp only [List.mem_cons, List.not_mem_nil, or_false] at hmapped
  rw [decodeInput_eq_drop_iff, ← Bool.not_eq_true, ← Bool.not_eq_true, hmapped, hprintable]
  omega

end Sys2Proof.Machine
end

section
/-! SUPPORT. The meaning of every instruction in closed form, from any state: a cursor and a list of events that depend on
the configuration, the OPEN parameters and the cursor alone (41_display_ops.md; 42_input_interpreter.md R160). -/

namespace Sys2Proof.Machine

/-- The cursor an instruction leaves and the events it emits. For an input byte and a cursor in range it is `react` (see
`react_eq_effect`); out of range NL and TAB pad nothing, and BS whose first move lands on the edge sends no space. -/
def effect (cfg : DisplayConfig) (tm : Timing) (c : Cursor) (i : Instr) : Cursor × List Event :=
  match i with
  | .esc => ({ c with esc := true }, [])
  | .escR => ({ row := 0, col := 0, esc := false, init := true }, resetEvents cfg tm)
  | .escH => ({ c with row := 0, col := 0, esc := false }, cmdEvents 0x02#8 2000)
  | .escOther _ => ({ c with esc := false }, [])
  | .nl =>
    if c.row + 1 < cfg.lines then
      ({ c with row := c.row + 1, col := 0 }, padEvents (cfg.cols - c.col) ++ repositionEvents cfg.cols (c.row + 1) 0)
    else ({ c with col := c.col + (cfg.cols - c.col) }, padEvents (cfg.cols - c.col))
  | .cr => ({ c with col := 0 }, repositionEvents cfg.cols c.row 0)
  | .tab => ({ c with col := c.col + tabWidth cfg.cols c.col }, padEvents (tabWidth cfg.cols c.col))
  | .bel => (c, flashEvents cfg tm)
  | .bs =>
    if c.col = 0 then (c, flashEvents cfg tm)
    else if c.col = cfg.cols + 1 then
      ({ c with col := c.col - 1 - 1 },
        repositionEvents cfg.cols c.row (c.col - 1) ++ repositionEvents cfg.cols c.row (c.col - 1 - 1))
    else
      ({ c with col := c.col - 1 },
        repositionEvents cfg.cols c.row (c.col - 1) ++ writeEvents 0x20#8 ++ repositionEvents cfg.cols c.row (c.col - 1))
  | .ff => ({ c with row := 0, col := 0 }, cmdEvents 0x01#8 2000)
  | .putc ch => if c.col = cfg.cols then (c, []) else ({ c with col := c.col + 1 }, writeEvents ch)
  | .drop _ => (c, [])
  | .wake lo => (c, transferEvents (.wake lo))
  | .mode4 lo => (c, transferEvents (.mode4 lo))
  | .fset n f => (c, transferEvents (.fset n f))
  | .doff => (c, transferEvents .doff)
  | .don x y => (c, transferEvents (.don x y))
  | .entry => (c, transferEvents .entry)
  | .clr => (c, transferEvents .clr)
  | .homec => (c, transferEvents .homec)
  | .setaddr a => (c, transferEvents (.setaddr a))
  | .data ch => (c, transferEvents (.data ch))

/-- The events of an instruction at a state. -/
def eventsAt (i : Instr) (s : State) : List Event := (effect s.cfg s.timing (cursorOf s) i).2

/-- The cursor after an instruction at a state. -/
def cursorAt (i : Instr) (s : State) : Cursor := (effect s.cfg s.timing (cursorOf s) i).1

/-- PC after an instruction: an input instruction consumes its byte (R24; log entry 12). -/
def pcAt (i : Instr) (s : State) : Nat := if formatOf i = .in9 then s.pc + 1 else s.pc

/-- The state an instruction answers: its cursor, its PC and its events. -/
def after (i : Instr) (s : State) : State := withCursor (cursorAt i s) (pcAt i s) (emitAll (eventsAt i s) s)

/-! ### withCursor, field by field -/

@[simp] theorem withCursor_row (c : Cursor) (pc : Nat) (s : State) : (withCursor c pc s).row = c.row := rfl
@[simp] theorem withCursor_col (c : Cursor) (pc : Nat) (s : State) : (withCursor c pc s).col = c.col := rfl
@[simp] theorem withCursor_esc (c : Cursor) (pc : Nat) (s : State) : (withCursor c pc s).esc = c.esc := rfl
@[simp] theorem withCursor_init (c : Cursor) (pc : Nat) (s : State) : (withCursor c pc s).init = c.init := rfl
@[simp] theorem withCursor_pc (c : Cursor) (pc : Nat) (s : State) : (withCursor c pc s).pc = pc := rfl
@[simp] theorem withCursor_bl (c : Cursor) (pc : Nat) (s : State) : (withCursor c pc s).bl = s.bl := rfl
@[simp] theorem withCursor_cfg (c : Cursor) (pc : Nat) (s : State) : (withCursor c pc s).cfg = s.cfg := rfl
@[simp] theorem withCursor_timing (c : Cursor) (pc : Nat) (s : State) : (withCursor c pc s).timing = s.timing := rfl
@[simp] theorem withCursor_pins (c : Cursor) (pc : Nat) (s : State) : (withCursor c pc s).pins = s.pins := rfl
@[simp] theorem withCursor_stream (c : Cursor) (pc : Nat) (s : State) : (withCursor c pc s).stream = s.stream := rfl
@[simp] theorem withCursor_display (c : Cursor) (pc : Nat) (s : State) : (withCursor c pc s).display = s.display := rfl

@[simp] theorem cursorOf_row (s : State) : (cursorOf s).row = s.row := rfl
@[simp] theorem cursorOf_col (s : State) : (cursorOf s).col = s.col := rfl
@[simp] theorem cursorOf_esc (s : State) : (cursorOf s).esc = s.esc := rfl
@[simp] theorem cursorOf_init (s : State) : (cursorOf s).init = s.init := rfl

/-! ### The operations whose loops can run out of range -/

/-- The loop of `k` spaces from any column: spaces that do not fit are none (R132, R134). -/
theorem padSpaces_of_le {k : Nat} {s : State} (h : k ≤ s.cfg.cols - s.col) :
    padSpaces k s = withCursor { cursorOf s with col := s.col + k } s.pc (emitAll (padEvents k) s) := by
  rcases Nat.eq_zero_or_pos k with rfl | hpos
  · rfl
  · exact padSpaces_spec k s (by omega)

theorem opNl_eq (s : State) : opNl s = withCursor (cursorAt .nl s) s.pc (emitAll (eventsAt .nl s) s) := by
  simp only [opNl, padSpaces_of_le le_rfl, cursorAt, eventsAt, effect, cursorOf_row, cursorOf_col]
  by_cases hrow : s.row + 1 < s.cfg.lines
  · simp [hrow, notLastRow, reposition_spec, setRow_eq, setCol_eq, emitAll_withCursor, emitAll_append]
  · simp [hrow, notLastRow]

theorem opTab_eq (s : State) : opTab s = withCursor (cursorAt .tab s) s.pc (emitAll (eventsAt .tab s) s) :=
  padSpaces_of_le (min_le_right _ _)

theorem opPutc_eq (ch : Byte) (s : State) :
    opPutc ch s = withCursor (cursorAt (.putc ch) s) s.pc (emitAll (eventsAt (.putc ch) s) s) := by
  simp only [opPutc_spec, cursorAt, eventsAt, effect, cursorOf_col]
  by_cases hcol : s.col = s.cfg.cols
  · simp only [hcol, ↓reduceIte, emitAll_nil, withCursor_self]
  · simp only [hcol, ↓reduceIte]

/-- The move BKSP makes before and after its space (R138). -/
theorem moveLeft_eq (s : State) : reposition (setCol (s.col - 1) s) =
    withCursor { cursorOf s with col := s.col - 1 } s.pc (emitAll (repositionEvents s.cfg.cols s.row (s.col - 1)) s) := by
  rw [reposition_spec, setCol_eq, emitAll_withCursor]
  rfl

theorem opBksp_of_pos {s : State} (h : 0 < s.col) : opBksp s =
    (let s1 := opPutc space (reposition (setCol (s.col - 1) s)); reposition (setCol (s1.col - 1) s1)) := by
  simp [opBksp, pastLeft, h]

theorem opBksp_eq (s : State) : opBksp s = withCursor (cursorAt .bs s) s.pc (emitAll (eventsAt .bs s) s) := by
  simp only [cursorAt, eventsAt, effect, cursorOf_col, cursorOf_row]
  by_cases hzero : s.col = 0
  · simp only [opBksp_zero s hzero, opFlash_spec, hzero, ↓reduceIte, ← emitAll_self]
  · simp only [opBksp_of_pos (Nat.pos_of_ne_zero hzero), moveLeft_eq, hzero, ↓reduceIte]
    by_cases hedge : s.col = s.cfg.cols + 1
    · have hpinned : s.col - 1 = s.cfg.cols := by omega
      simp [opPutc_spec, hedge, emitAll_withCursor, emitAll_append]
    · have hshort : s.col - 1 ≠ s.cfg.cols := by omega
      simp [opPutc_spec, hedge, hshort, emitAll_withCursor, emitAll_append, space]

/-! ### The dispatch -/

/-- An input instruction that runs the operation `f` answers its closed form when `f` does. -/
theorem exec_eq_after_of_op {i : Instr} {f : State → State} {s : State} (hin : formatOf i = .in9)
    (hexec : exec i s = .next (advancePc (f s)))
    (hop : f s = withCursor (cursorAt i s) s.pc (emitAll (eventsAt i s) s)) : exec i s = .next (after i s) := by
  rw [hexec, hop, advancePc_withCursor, after, pcAt, if_pos hin]

/-- A bus transfer answers its closed form when it emits its events. -/
theorem exec_eq_after_of_transfer {i : Instr} {s : State} (hbus : formatOf i ≠ .in9)
    (hcursor : cursorAt i s = cursorOf s) (hexec : exec i s = .next (emitAll (eventsAt i s) s)) :
    exec i s = .next (after i s) := by
  rw [hexec, after, pcAt, if_neg hbus, hcursor, ← emitAll_self]

/-- Every instruction answers the state of its closed form. -/
theorem exec_eq_after (i : Instr) (s : State) : exec i s = .next (after i s) := by
  cases i with
  | esc | escOther | drop => rfl
  | escR =>
    refine exec_eq_after_of_op (f := fun t => opReset (setEsc false t)) rfl rfl ?_
    rw [opReset_spec, setEsc_eq, emitAll_withCursor, withCursor_withCursor]
    rfl
  | escH =>
    refine exec_eq_after_of_op (f := fun t => opHome (setEsc false t)) rfl rfl ?_
    rw [opHome_spec, setEsc_eq, emitAll_withCursor, withCursor_withCursor]
    rfl
  | nl => exact exec_eq_after_of_op rfl rfl (opNl_eq s)
  | cr => exact exec_eq_after_of_op rfl rfl (opCr_spec s)
  | tab => exact exec_eq_after_of_op rfl rfl (opTab_eq s)
  | bel => exact exec_eq_after_of_op rfl rfl ((opFlash_spec s).trans (emitAll_self _ s))
  | bs => exact exec_eq_after_of_op rfl rfl (opBksp_eq s)
  | ff => exact exec_eq_after_of_op rfl rfl (opClear_spec s)
  | putc ch => exact exec_eq_after_of_op rfl rfl (opPutc_eq ch s)
  | wake lo | mode4 lo | fset n f | doff | don c b | entry | clr | homec | setaddr a | data ch =>
    exact exec_eq_after_of_transfer nofun rfl rfl
end Sys2Proof.Machine
end

section
/-! SUPPORT. The answer of an instruction field by field, and what it says of each instruction on its own
(42_input_interpreter.md sections 2 and 3; 30_encoding.md section 7). -/

namespace Sys2Proof.Machine

@[simp] theorem after_row (i : Instr) (s : State) : (after i s).row = (cursorAt i s).row := rfl
@[simp] theorem after_col (i : Instr) (s : State) : (after i s).col = (cursorAt i s).col := rfl
@[simp] theorem after_esc (i : Instr) (s : State) : (after i s).esc = (cursorAt i s).esc := rfl
@[simp] theorem after_init (i : Instr) (s : State) : (after i s).init = (cursorAt i s).init := rfl
@[simp] theorem after_pc (i : Instr) (s : State) : (after i s).pc = pcAt i s := rfl
@[simp] theorem cursorOf_after (i : Instr) (s : State) : cursorOf (after i s) = cursorAt i s := rfl

@[simp] theorem after_cfg (i : Instr) (s : State) : (after i s).cfg = s.cfg := emitAll_cfg _ s
@[simp] theorem after_timing (i : Instr) (s : State) : (after i s).timing = s.timing := emitAll_timing _ s
@[simp] theorem after_pins (i : Instr) (s : State) : (after i s).pins = s.pins := emitAll_pins _ s
@[simp] theorem after_stream (i : Instr) (s : State) : (after i s).stream = s.stream := emitAll_stream _ s
@[simp] theorem after_bl (i : Instr) (s : State) : (after i s).bl = s.bl := emitAll_bl _ s
@[simp] theorem after_trace (i : Instr) (s : State) : (after i s).trace = s.trace ++ eventsAt i s := emitAll_trace _ s
@[simp] theorem after_display (i : Instr) (s : State) :
    (after i s).display = (emitAll (eventsAt i s) s).display := rfl

theorem pcAt_of_in9 {i : Instr} (h : formatOf i = .in9) (s : State) : pcAt i s = s.pc + 1 := if_pos h

/-- An input instruction's answer as an update of the state after its events. -/
theorem after_of_in9 {i : Instr} (h : formatOf i = .in9) (s : State) :
    after i s = { emitAll (eventsAt i s) s with
      row := (cursorAt i s).row, col := (cursorAt i s).col, esc := (cursorAt i s).esc, init := (cursorAt i s).init,
      pc := s.pc + 1 } := by
  rw [after, pcAt_of_in9 h]
  rfl

/-- A bus transfer leaves the cursor (30_encoding.md section 6). -/
theorem cursorAt_of_bus {i : Instr} (h : formatOf i ≠ .in9) (s : State) : cursorAt i s = cursorOf s := by
  cases i with
  | esc | escR | escH | escOther | nl | cr | tab | bel | bs | ff | putc | drop => exact absurd rfl h
  | wake | mode4 | fset | doff | don | entry | clr | homec | setaddr | data => rfl

theorem eventsAt_ff (s : State) : eventsAt .ff s = cmdEvents 0x01#8 2000 := rfl
theorem eventsAt_escH (s : State) : eventsAt .escH s = cmdEvents 0x02#8 2000 := rfl
theorem eventsAt_escR (s : State) : eventsAt .escR s = resetEvents s.cfg s.timing := rfl
theorem eventsAt_cr (s : State) : eventsAt .cr s = repositionEvents s.cfg.cols s.row 0 := rfl
theorem eventsAt_bel (s : State) : eventsAt .bel s = flashEvents s.cfg s.timing := rfl

/-- Settles O15. -/
theorem dropOnlyConsumes : Obligations.DropOnlyConsumes := fun s b => exec_drop b s

/-- Settles O17: the closed form of CLEAR. -/
theorem formFeedClearsAndHomes : Obligations.FormFeedClearsAndHomes := by
  intro s
  rw [exec_eq_after, after_of_in9 rfl]
  simp [cursorAt, eventsAt, effect]

/-- Settles O18: the closed form of HOME. -/
theorem escHReturnsHome : Obligations.EscHReturnsHome := by
  intro s
  rw [exec_eq_after, after_of_in9 rfl]
  simp [cursorAt, eventsAt, effect]

/-- Settles O19: the closed form of RESET. -/
theorem escRRunsTheResetSequence : Obligations.EscRRunsTheResetSequence := by
  refine fun s => ⟨rfl, ?_⟩
  rw [exec_eq_after, after_of_in9 rfl]
  simp [cursorAt, eventsAt, effect]

/-- Settles O20: the closed form of CR. -/
theorem carriageReturnRepositions : Obligations.CarriageReturnRepositions := by
  intro s
  rw [exec_eq_after, after_of_in9 rfl]
  simp [cursorAt, eventsAt, effect]

/-- Settles O21: the two branches of NL; in range the padding ends at the edge. -/
theorem newlinePadsThenAdvances : Obligations.NewlinePadsThenAdvances := by
  intro s hcol
  rw [exec_eq_after, after_of_in9 rfl]
  refine ⟨fun hrow => ?next, fun hlast => ?last⟩
  case next => simp [cursorAt, eventsAt, effect, hrow]
  case last => simp [cursorAt, eventsAt, effect, Nat.not_lt.2 hlast, Nat.add_sub_cancel' hcol]

theorem exec_bel (s : State) : exec .bel s = .next { emitAll (flashEvents s.cfg s.timing) s with pc := s.pc + 1 } := by
  rw [exec_eq_after, after_of_in9 rfl]
  simp [cursorAt, eventsAt, effect]

/-- Settles O23. -/
theorem bellFlashesTwice : Obligations.BellFlashesTwice := exec_bel

theorem exec_bs_of_zero {s : State} (h : s.col = 0) : exec .bs s = exec .bel s :=
  congrArg (fun t => Host.Outcome.next (advancePc t)) (opBksp_zero s h)

/-- Settles O24: past column 0 the move left, a space and the move again; at column 0 BKSP is FLASH. -/
theorem backspaceErasesOrFlashes : Obligations.BackspaceErasesOrFlashes := by
  refine fun s => ⟨fun hpos hcol => ?erase, fun hzero => ⟨exec_bs_of_zero hzero, ?flash⟩⟩
  case erase =>
    have hzero : s.col ≠ 0 := by omega
    have hedge : s.col ≠ s.cfg.cols + 1 := by omega
    rw [exec_eq_after, after_of_in9 rfl]
    simp [cursorAt, eventsAt, effect, hzero, hedge]
  case flash => rw [exec_bs_of_zero hzero, exec_bel]

/-! ### The bus transfers -/

theorem hiNibble_halfByte : ∀ hi lo : Nibble, hiNibble (halfByte hi lo) = hi := by decide

/-- A half transfer emits TXU of its upper nibble: the lower one has no effect at all (R104). -/
theorem txu_halfByte (r : Bool) (hi lo lo' : Nibble) : txu r (halfByte hi lo) = txu r (halfByte hi lo') := by
  rw [txu, hiNibble_halfByte, txu, hiNibble_halfByte]

theorem eventsAt_of_bus {i : Instr} (h : formatOf i ≠ .in9) (s : State) : eventsAt i s = transferEvents i := by
  cases i with
  | esc | escR | escH | escOther | nl | cr | tab | bel | bs | ff | putc | drop => exact absurd rfl h
  | wake | mode4 | fset | doff | don | entry | clr | homec | setaddr | data => rfl

theorem exec_of_bus {i : Instr} (h : formatOf i ≠ .in9) (s : State) :
    exec i s = .next (emitAll (transferEvents i) s) := by
  rw [exec_eq_after, after, pcAt, if_neg h, cursorAt_of_bus h, ← emitAll_self, eventsAt_of_bus h]

/-- A full transfer emits TX of its register type and byte (R102). -/
theorem exec_of_busFull {i : Instr} (h : formatOf i = .busFull) (s : State) :
    exec i s = .next (emitAll (tx (topBitOf i) (byteOf i)) s) := by
  rw [exec_of_bus (by rw [h]; exact nofun), transferEvents, if_neg (by rw [h]; exact nofun)]

theorem exec_wake (lo : Nibble) (s : State) : exec (.wake lo) s = .next (emitAll (txu false 0x30#8) s) :=
  congrArg (fun l => Host.Outcome.next (emitAll l s)) (txu_halfByte false 0x3#4 lo 0#4)

theorem exec_mode4 (lo : Nibble) (s : State) : exec (.mode4 lo) s = .next (emitAll (txu false 0x20#8) s) :=
  congrArg (fun l => Host.Outcome.next (emitAll l s)) (txu_halfByte false 0x2#4 lo 0#4)

/-- Settles O28: the half transfers by their upper nibble, the full ones by their register type and byte. -/
theorem busTransfersAreTheirEvents : Obligations.BusTransfersAreTheirEvents := fun s x y lo a ch =>
  ⟨exec_wake lo s, exec_mode4 lo s, exec_of_busFull (i := .fset x y) rfl s, exec_of_busFull (i := .doff) rfl s,
    exec_of_busFull (i := .don x y) rfl s, exec_of_busFull (i := .entry) rfl s, exec_of_busFull (i := .clr) rfl s,
    exec_of_busFull (i := .homec) rfl s, exec_of_busFull (i := .setaddr a) rfl s, exec_of_busFull (i := .data ch) rfl s⟩

end Sys2Proof.Machine
end

section
/-! SUPPORT. What the events of an instruction leave alone and what they do not depend on (10_state.md R26, R28, R31, R32;
00_scope.md R3, R12). -/

namespace Sys2Proof.Machine

/-! ### The latches -/

/-- The latch of a pin. -/
def level (p : Pin) (s : State) : Bool :=
  match p with
  | .rs => s.rs
  | .rw => s.rw
  | .e => s.e

theorem level_emit_set (p q : Pin) (v : Bool) (s : State) :
    level p (emit (.set q v) s) = if q = p then v else level p s := by
  cases p <;> cases q <;> rfl

theorem level_emit_setD (p : Pin) (n : Nibble) (s : State) : level p (emit (.setD n) s) = level p s := by
  cases p <;> rfl

theorem level_emit_wait (p : Pin) (t : Nat) (s : State) : level p (emit (.wait t) s) = level p s := by
  cases p <;> rfl

/-- Each latch holds the last level it was given (R31). -/
theorem level_emitAll (p : Pin) (l : List Event) (s : State) : level p (emitAll l s) = lastLevel p l (level p s) := by
  induction l generalizing s with
  | nil => rfl
  | cons ev l ih =>
    cases ev with
    | set q v => rw [emitAll_cons, ih, level_emit_set, lastLevel]
    | setD n => rw [emitAll_cons, ih, level_emit_setD, lastLevel]
    | wait t => rw [emitAll_cons, ih, level_emit_wait, lastLevel]

/-- The data lines hold the last nibble they were given (R31). -/
theorem emitAll_d (l : List Event) (s : State) : (emitAll l s).d = lastData l s.d := by
  induction l generalizing s with
  | nil => rfl
  | cons ev l ih =>
    cases ev with
    | set q v => cases q <;> exact ih _
    | setD n => exact ih _
    | wait t => exact ih _

/-- Settles O30: the trace, the latches by induction on the events, and the frame of `emitAll`. -/
theorem eventsTouchOnlyPinsTraceAndDisplay : Obligations.EventsTouchOnlyPinsTraceAndDisplay := fun l s =>
  ⟨emitAll_trace l s, level_emitAll .rs l s, level_emitAll .rw l s, level_emitAll .e l s, emitAll_d l s, emitAll_keeps l s⟩

/-- Settles O31: the fields of the closed form. -/
theorem everyInstructionKeepsTheControlState : Obligations.EveryInstructionKeepsTheControlState := fun i s =>
  ⟨after i s, exec_eq_after i s, after_cfg i s, after_timing i s, after_pins i s, after_stream i s, after_bl i s,
    ⟨eventsAt i s, (after_trace i s).symm⟩, after_pc i s, fun hbus => cursorAt_of_bus hbus s⟩

/-! ### The display -/

/-- `s` in front of another display. -/
def withDisplay (dsp : Display) (s : State) : State := { s with display := dsp }

/-- No event reads the display: in front of another one, only the display differs afterwards (R2, R3). -/
theorem emitAll_withDisplay (l : List Event) (dsp : Display) (s : State) :
    ∃ dsp', emitAll l (withDisplay dsp s) = withDisplay dsp' (emitAll l s) := by
  induction l generalizing dsp s with
  | nil => exact ⟨dsp, rfl⟩
  | cons ev l ih =>
    have hemit : emit ev (withDisplay dsp s) = withDisplay (emit ev (withDisplay dsp s)).display (emit ev s) := by
      rcases ev with ⟨⟨⟩, _⟩ | _ | _ <;> rfl
    rw [emitAll_cons, hemit]
    exact ih _ _

/-- Settles O49: cursor and events are computed without the display, and no event reads it. -/
theorem engineNeverReadsTheDisplay : Obligations.EngineNeverReadsTheDisplay := by
  intro i s t dsp hexec
  rw [exec_eq_after] at hexec
  cases hexec
  obtain ⟨dsp', hdsp⟩ := emitAll_withDisplay (eventsAt i s) dsp s
  refine ⟨dsp', (exec_eq_after i (withDisplay dsp s)).trans (congrArg _ ?_)⟩
  calc after i (withDisplay dsp s)
      = withCursor (cursorAt i s) (pcAt i s) (emitAll (eventsAt i s) (withDisplay dsp s)) := rfl
    _ = withCursor (cursorAt i s) (pcAt i s) (withDisplay dsp' (emitAll (eventsAt i s) s)) := by rw [hdsp]
    _ = withDisplay dsp' (after i s) := rfl

/-! ### The flag INIT -/

/-- The closed form passes INIT on and does not test it (R26). -/
theorem effect_init (cfg : DisplayConfig) (tm : Timing) (c : Cursor) (v : Bool) (i : Instr) :
    (∃ v', (effect cfg tm { c with init := v } i).1 = { (effect cfg tm c i).1 with init := v' }) ∧
      (effect cfg tm { c with init := v } i).2 = (effect cfg tm c i).2 := by
  cases i with
  | escR => exact ⟨⟨true, rfl⟩, rfl⟩
  | nl | bs | putc =>
    simp only [effect]
    split_ifs <;> exact ⟨⟨v, rfl⟩, rfl⟩
  | esc | escH | escOther | cr | tab | bel | ff | drop | wake | mode4 | fset | doff | don | entry | clr | homec | setaddr
  | data => exact ⟨⟨v, rfl⟩, rfl⟩

/-- Settles O50: the closed form reads no latch, and INIT only to pass it on. -/
theorem engineNeverReadsPinsOrInit : Obligations.EngineNeverReadsPinsOrInit := by
  intro i s t rs rw' e init d hexec
  rw [exec_eq_after] at hexec
  cases hexec
  obtain ⟨⟨v, hcursor⟩, hevents⟩ := effect_init s.cfg s.timing (cursorOf s) init i
  exact ⟨_, exec_eq_after i _, (after_trace i _).trans ((congrArg _ hevents).trans (after_trace i s).symm),
    (congrArg Cursor.row hcursor :), (congrArg Cursor.col hcursor :), (congrArg Cursor.esc hcursor :), rfl⟩

/-! ### The OPEN parameters -/

/-- `s` with other OPEN parameters. -/
def withTiming (tm : Timing) (s : State) : State := { s with timing := tm }

theorem emitAll_withTiming (l : List Event) (tm : Timing) (s : State) :
    emitAll l (withTiming tm s) = withTiming tm (emitAll l s) := by
  induction l generalizing s with
  | nil => rfl
  | cons ev l ih =>
    have hemit : emit ev (withTiming tm s) = withTiming tm (emit ev s) := by
      rcases ev with ⟨⟨⟩, _⟩ | _ | _ <;> rfl
    rw [emitAll_cons, hemit, ih, emitAll_cons]

/-- Waits change the trace alone: the rest of the state is that of the `Set` and `SetD` events (R13, R14). -/
theorem emitAll_eq_setsOf (l : List Event) (s : State) :
    emitAll l s = withTrace (s.trace ++ l) (emitAll (setsOf l) s) := by
  induction l generalizing s with
  | nil => simp [setsOf, withTrace]
  | cons ev l ih =>
    have htrace : s.trace ++ ev :: l = (emit ev s).trace ++ l := by simp
    rw [emitAll_cons, ih, htrace]
    cases ev with
    | set p v => rfl
    | setD n => rfl
    | wait t =>
      have hwait : emit (.wait t) s = withTrace (s.trace ++ [.wait t]) s := rfl
      rw [hwait, emitAll_withTrace]
      rfl

theorem setsOf_append (l l' : List Event) : setsOf (l ++ l') = setsOf l ++ setsOf l' := List.filter_append ..

/-- Other OPEN parameters change waits only (R12). -/
theorem effect_timing (cfg : DisplayConfig) (tm tm' : Timing) (c : Cursor) (i : Instr) :
    (effect cfg tm' c i).1 = (effect cfg tm c i).1 ∧ setsOf (effect cfg tm' c i).2 = setsOf (effect cfg tm c i).2 := by
  cases i with
  | bs =>
    simp only [effect]
    split_ifs <;> exact ⟨rfl, rfl⟩
  | escR | bel | esc | escH | escOther | nl | cr | tab | ff | putc | drop | wake | mode4 | fset | doff | don | entry
  | clr | homec | setaddr | data => exact ⟨rfl, rfl⟩

/-- Settles O51: the closed form has the same cursor and the same `Set` and `SetD` events, and waits change nothing but the
trace. -/
theorem openParametersOnlyChangeWaits : Obligations.OpenParametersOnlyChangeWaits := by
  intro i s t tm hexec
  rw [exec_eq_after] at hexec
  cases hexec
  obtain ⟨hcursor, hsets⟩ := effect_timing s.cfg s.timing tm (cursorOf s) i
  have hevents : emitAll (eventsAt i (withTiming tm s)) (withTiming tm s) =
      withTrace (s.trace ++ eventsAt i (withTiming tm s)) (withTiming tm (emitAll (eventsAt i s) s)) := by
    rw [emitAll_eq_setsOf, emitAll_withTiming, emitAll_eq_setsOf (eventsAt i s)]
    exact congrArg (fun l => withTrace _ (withTiming tm (emitAll l s))) hsets
  refine ⟨s.trace ++ eventsAt i (withTiming tm s), (exec_eq_after i (withTiming tm s)).trans (congrArg _ ?_), ?_⟩
  · rw [after, hevents]
    exact congrArg (fun c => withCursor c _ (withTrace _ (withTiming tm (emitAll (eventsAt i s) s)))) hcursor
  · rw [after_trace, setsOf_append, setsOf_append]
    exact congrArg _ hsets

end Sys2Proof.Machine
end

section
/-! SUPPORT. The fetch and the step: one inversion law that every invariant of a step uses (10_state.md R24; 60_exceptions.md
R190, R193, R205), and the word a host places. -/

namespace Sys2Proof.Machine

/-- With no byte at index PC the step holds the state (R205). -/
theorem step_of_idle {s : State} (hvalid : validConfig s.cfg = true) (hend : s.stream.length ≤ s.pc) :
    step s = .next s := by
  have hfetch : fetchInstr s = .idle := by
    rw [fetchInstr, if_pos hvalid, List.getElem?_eq_none hend]
  rw [step, hfetch]

/-- What a step can do: hold the state, or take the byte at index PC and answer its instruction's closed form. -/
theorem step_cases {s t : State} (h : step s = .next t) :
    (s.stream.length ≤ s.pc ∧ t = s) ∨
      ∃ b, s.stream[s.pc]? = some b ∧ t = after (decodeInput s.esc b) s := by
  have hvalid := validConfig_of_step_next h
  rcases Nat.lt_or_ge s.pc s.stream.length with hpc | hend
  · have hbyte := List.getElem?_eq_getElem hpc
    rw [step_of_byte hvalid hbyte, exec_eq_after] at h
    exact .inr ⟨_, hbyte, (Host.Outcome.next.inj h).symm⟩
  · rw [step_of_idle hvalid hend] at h
    exact .inl ⟨hend, (Host.Outcome.next.inj h).symm⟩

theorem step_eq_after {s : State} {b : Byte} (hvalid : validConfig s.cfg = true) (hbyte : s.stream[s.pc]? = some b) :
    step s = .next (after (decodeInput s.esc b) s) :=
  (step_of_byte hvalid hbyte).trans (exec_eq_after _ s)

/-- A step that takes a byte answers the closed form of its instruction. -/
theorem eq_after_of_step {s t : State} {b : Byte} (hbyte : s.stream[s.pc]? = some b) (h : step s = .next t) :
    t = after (decodeInput s.esc b) s := by
  rw [step_eq_after (validConfig_of_step_next h) hbyte] at h
  exact (Host.Outcome.next.inj h).symm

theorem exists_step_of_validConfig {s : State} (hvalid : validConfig s.cfg = true) : ∃ t, step s = .next t := by
  rcases Nat.lt_or_ge s.pc s.stream.length with hpc | hend
  · exact ⟨_, step_eq_after hvalid (List.getElem?_eq_getElem hpc)⟩
  · exact ⟨s, step_of_idle hvalid hend⟩

/-- Settles O6. -/
theorem stepRunsTheDecodedByte : Obligations.StepRunsTheDecodedByte := fun _ _ => step_of_byte

/-- Settles O7. -/
theorem idleStepHoldsTheState : Obligations.IdleStepHoldsTheState := fun _ => step_of_idle

/-- Settles O8: a fault has no reason, a valid configuration steps, and any other is refused at the fetch. -/
theorem stepRefusesOnlyInvalidConfig : Obligations.StepRefusesOnlyInvalidConfig := by
  refine fun s => ⟨nofun, ⟨fun ⟨_, h⟩ => validConfig_of_step_next h, exists_step_of_validConfig⟩, ?refused⟩
  case refused =>
    rw [← Bool.not_eq_true]
    refine ⟨fun hrefused hvalid => ?_, step_of_not_validConfig⟩
    obtain ⟨t, ht⟩ := exists_step_of_validConfig hvalid
    rw [hrefused] at ht
    cases ht

/-! ### The placed word -/

/-- The placed byte stands at index PC, also where PC is past the end of the stream (log entry 26). -/
theorem getElem?_placeByte (b : Byte) (s : State) : (placeByte b s)[s.pc]? = some b := by
  have hlength : (s.stream.take s.pc ++ List.replicate (s.pc - s.stream.length) 0x00#8).length = s.pc := by
    simp
    omega
  rw [placeByte, List.getElem?_append_right (by omega), hlength, Nat.sub_self, List.getElem?_cons_zero]

/-- The table's word number carries the flag in bit 8 and the byte below (R70). -/
theorem decodeTableWord_of_lt {w : Nat} (n : Nat) (h : w < 512) :
    decodeTableWord n w = some (decodeInput (w.testBit 8) (BitVec.ofNat 8 w)) := by
  have hflag : (BitVec.ofNat 9 w).getLsbD 8 = w.testBit 8 := by
    rw [BitVec.getLsbD_ofNat, decide_eq_true (by omega), Bool.true_and]
  have hbyte : (BitVec.ofNat 9 w).extractLsb' 0 8 = BitVec.ofNat 8 w := by
    apply BitVec.eq_of_toNat_eq
    simp
  rw [decodeTableWord, if_pos h, decode, hflag, hbyte]
  rfl

/-- Settles O12: the placed byte is the one fetched, under the placed flag. -/
theorem placedWordIsFetchedAndRun : Obligations.PlacedWordIsFetchedAndRun := fun s n _ hvalid hw =>
  ⟨_, decodeTableWord_of_lt n hw, step_of_byte hvalid (getElem?_placeByte _ s)⟩

end Sys2Proof.Machine
end

section
/-! SUPPORT. Hardware reset (10_state.md R38; 70_reset_and_hazards.md R220), and the engine's invariant from there on
(10_state.md R22, R23). -/

namespace Sys2Proof.Machine

/-- Settles O13: each field of the reset state. -/
theorem hardwareResetValues : Obligations.HardwareResetValues :=
  ⟨fun _ _ _ => ⟨rfl, rfl, rfl, rfl, rfl, rfl, rfl, rfl, rfl⟩, ⟨rfl, rfl, rfl, rfl, rfl, rfl, rfl, rfl⟩⟩

/-- The bounds an accepted configuration gives (R10). -/
theorem bounds_of_validConfig {c : DisplayConfig} (h : validConfig c = true) :
    (c.lines = 1 ∨ c.lines = 2 ∨ c.lines = 4) ∧ 0 < c.cols ∧ c.lines * c.cols ≤ 80 := by
  obtain ⟨hlines, hcols, hcells, -⟩ := (validConfig_iff c).1 h
  exact ⟨by simpa using hlines, hcols, hcells⟩

theorem cols_le_of_validConfig {c : DisplayConfig} (h : validConfig c = true) : c.cols ≤ 80 := by
  obtain ⟨hlines | hlines | hlines, -, hcells⟩ := bounds_of_validConfig h <;> rw [hlines] at hcells <;> omega

theorem engineInv_resetWith {c : DisplayConfig} (h : validConfig c = true) (tm : Timing) (p : PinAssignment)
    (bs : List Byte) (dsp : Display) : EngineInv (State.resetWith c tm p bs dsp) := by
  have hlines : 0 < c.lines := by
    obtain ⟨hlines, -, -⟩ := bounds_of_validConfig h
    omega
  exact ⟨h, hlines, Nat.zero_le _, Nat.zero_le _, rfl⟩

/-- Settles O34: the power-on state is one hardware reset of the default configuration. -/
theorem engineInvariantHoldsAtReset : Obligations.EngineInvariantHoldsAtReset :=
  ⟨engineInv_resetWith (by decide) _ _ _ _, fun _ bs s hvalid => engineInv_resetWith hvalid s.timing s.pins bs s.display⟩

/-- Settles O44: the empty list is canonical. -/
theorem ddramIsCanonicalAtReset : Obligations.DdramIsCanonicalAtReset := Memory.wf_nil

/-- How ROW moves: NL adds one short of the last row, and the homing instructions put it to 0 (R22). -/
theorem effect_row (cfg : DisplayConfig) (tm : Timing) (c : Cursor) (i : Instr) :
    (effect cfg tm c i).1.row = c.row ∨
      ((effect cfg tm c i).1.row = c.row + 1 ∧ i = .nl ∧ c.row + 1 < cfg.lines) ∨
      ((effect cfg tm c i).1.row = 0 ∧ i ∈ [.ff, .escH, .escR]) := by
  cases i with
  | escR | escH | ff => exact .inr (.inr ⟨rfl, by simp⟩)
  | nl =>
    by_cases hrow : c.row + 1 < cfg.lines
    · exact .inr (.inl ⟨by simp [effect, hrow], rfl, hrow⟩)
    · exact .inl (by simp [effect, hrow])
  | bs | putc =>
    left
    simp only [effect]
    split_ifs <;> rfl
  | esc | escOther | cr | tab | bel | drop | wake | mode4 | fset | doff | don | entry | clr | homec | setaddr | data =>
    exact .inl rfl

/-- COL stays in its range (R23). -/
theorem effect_col_le (cfg : DisplayConfig) (tm : Timing) (c : Cursor) (i : Instr) (h : c.col ≤ cfg.cols) :
    (effect cfg tm c i).1.col ≤ cfg.cols := by
  cases i with
  | escR | escH | ff | cr => exact Nat.zero_le _
  | nl | bs | putc =>
    simp only [effect]
    split_ifs <;> dsimp only <;> omega
  | tab =>
    have hwidth : tabWidth cfg.cols c.col ≤ cfg.cols - c.col := min_le_right _ _
    simp only [effect]
    omega
  | esc | escOther | bel | drop | wake | mode4 | fset | doff | don | entry | clr | homec | setaddr | data => exact h

/-- An input byte keeps the engine's invariant. -/
theorem engineInv_after {i : Instr} {s : State} (hin : formatOf i = .in9) (hpc : s.pc < s.stream.length)
    (h : EngineInv s) : EngineInv (after i s) := by
  obtain ⟨hvalid, hrow, hcol, -, hbl⟩ := h
  have hrow' : (cursorAt i s).row < s.cfg.lines := by
    rcases effect_row s.cfg s.timing (cursorOf s) i with hsame | ⟨hnext, -, hlt⟩ | ⟨hzero, -⟩
    · exact lt_of_eq_of_lt hsame hrow
    · exact lt_of_eq_of_lt hnext hlt
    · exact lt_of_eq_of_lt hzero (Nat.zero_lt_of_lt hrow)
  simp only [EngineInv, after_cfg, after_row, after_col, after_pc, after_stream, after_bl, pcAt_of_in9 hin]
  exact ⟨hvalid, hrow', effect_col_le _ _ _ _ hcol, hpc, hbl⟩

theorem lt_length_of_byte {s : State} {b : Byte} (h : s.stream[s.pc]? = some b) : s.pc < s.stream.length :=
  (List.getElem?_eq_some_iff.1 h).1

/-- Settles O33: an idle step holds the state, and a byte's instruction keeps the ranges. -/
theorem engineInvariantIsKept : Obligations.EngineInvariantIsKept := by
  intro s t hinv hstep
  obtain ⟨-, rfl⟩ | ⟨b, hbyte, rfl⟩ := step_cases hstep
  · exact hinv
  · exact engineInv_after (formatOf_decodeInput _ _) (lt_length_of_byte hbyte) hinv

/-- Settles O38: NL and the homing instructions are the only ones that write ROW. -/
theorem rowMovesOnlyByNewlineAndHome : Obligations.RowMovesOnlyByNewlineAndHome := by
  intro s t b _ hbyte hstep
  rw [eq_after_of_step hbyte hstep]
  rcases effect_row s.cfg s.timing (cursorOf s) (decodeInput s.esc b) with hsame | ⟨hnext, hnl, -⟩ | hzero
  · exact .inl hsame
  · exact .inr (.inl ⟨hnext, hnl⟩)
  · exact .inr (.inr hzero)

/-- How the flag ESC moves: the byte 0x1B sets it, and every instruction taken under it clears it (R161 to R164). -/
theorem effect_esc (cfg : DisplayConfig) (tm : Timing) (c : Cursor) {i : Instr} (hin : formatOf i = .in9) :
    (effect cfg tm c i).1.esc = (decide (i = .esc) || (c.esc && !topBitOf i)) := by
  cases i with
  | esc | escR | escH | escOther => simp [effect, topBitOf]
  | nl | bs | putc =>
    simp only [effect]
    split_ifs <;> simp [topBitOf]
  | cr | tab | bel | ff | drop => simp [effect, topBitOf]
  | wake | mode4 | fset | doff | don | entry | clr | homec | setaddr | data => cases hin

theorem decodeInput_eq_esc_iff (e : Bool) (b : Byte) : decodeInput e b = .esc ↔ b = 0x1B#8 ∧ e = false := by
  constructor
  · intro h
    obtain ⟨htop, hbyte, -⟩ := decodeInput_sound e b
    rw [h] at htop hbyte
    exact ⟨hbyte.symm, htop.symm⟩
  · rintro ⟨rfl, rfl⟩
    rfl

/-- Settles O37: an instruction read under the flag clears it, and one read without it sets it exactly for 0x1B. -/
theorem escapeFlagLivesForOneByte : Obligations.EscapeFlagLivesForOneByte := by
  intro s t b _ hbyte hstep
  obtain ⟨htop, -, -⟩ := decodeInput_sound s.esc b
  rw [eq_after_of_step hbyte hstep, after_esc, cursorAt, effect_esc _ _ _ (formatOf_decodeInput _ _), htop,
    cursorOf_esc, Bool.and_not_self, Bool.or_false, decide_eq_true_eq, decodeInput_eq_esc_iff]

end Sys2Proof.Machine
end

section
/-! SUPPORT. The step and the run against `react`, the closed form over input bytes (42_input_interpreter.md R160). -/

namespace Sys2Proof.Machine

/-- NL in range ends its padding at the edge (R132). -/
theorem effect_nl_of_le {cfg : DisplayConfig} {c : Cursor} (h : c.col ≤ cfg.cols) (tm : Timing) :
    effect cfg tm c .nl =
      if c.row + 1 < cfg.lines then
        ({ c with row := c.row + 1, col := 0 }, padEvents (cfg.cols - c.col) ++ repositionEvents cfg.cols (c.row + 1) 0)
      else ({ c with col := cfg.cols }, padEvents (cfg.cols - c.col)) := by
  simp only [effect, Nat.add_sub_cancel' h]

/-- TAB in range ends at the next stop or at the edge (R134). -/
theorem effect_tab_of_le {cfg : DisplayConfig} {c : Cursor} (h : c.col ≤ cfg.cols) (tm : Timing) :
    effect cfg tm c .tab =
      ({ c with col := min cfg.cols (c.col + (8 - c.col % 8)) },
        padEvents (min (8 - c.col % 8) (cfg.cols - c.col))) := by
  have hstop : c.col + min (8 - c.col % 8) (cfg.cols - c.col) = min cfg.cols (c.col + (8 - c.col % 8)) := by omega
  simp only [effect, tabWidth, hstop]

/-- BS in range has two cases: its first move never lands on the edge (R138). -/
theorem effect_bs_of_le {cfg : DisplayConfig} {c : Cursor} (h : c.col ≤ cfg.cols) (tm : Timing) :
    effect cfg tm c .bs =
      if 0 < c.col then
        ({ c with col := c.col - 1 },
          repositionEvents cfg.cols c.row (c.col - 1) ++ writeEvents 0x20#8
            ++ repositionEvents cfg.cols c.row (c.col - 1))
      else (c, flashEvents cfg tm) := by
  have hedge : c.col ≠ cfg.cols + 1 := by omega
  rcases Nat.eq_zero_or_pos c.col with hzero | hpos
  · simp only [effect, hzero, Nat.lt_irrefl, ↓reduceIte]
  · simp only [effect, hpos, hpos.ne', hedge, ↓reduceIte]

theorem effect_putc (cfg : DisplayConfig) (tm : Timing) (c : Cursor) (b : Byte) :
    effect cfg tm c (.putc b) =
      if c.col = cfg.cols then (c, []) else ({ c with col := c.col + 1 }, writeEvents b) := rfl

/-- On a cursor in range `react` is the closed form of the instruction its byte decodes to: both test the byte in the order
of R160. -/
theorem react_eq_effect {cfg : DisplayConfig} {c : Cursor} (h : c.col ≤ cfg.cols) (tm : Timing) (b : Byte) :
    react cfg tm c b = effect cfg tm c (decodeInput c.esc b) := by
  unfold react decodeInput
  rw [← effect_nl_of_le h tm, ← effect_tab_of_le h tm, ← effect_bs_of_le h tm, ← effect_putc cfg tm c b]
  simp only [isPrintable_iff]
  by_cases hesc : c.esc = true
  · rw [if_pos hesc, if_pos hesc]
    split_ifs <;> rfl
  · rw [if_neg hesc, if_neg hesc]
    split_ifs <;> rfl

/-- From the engine's invariant a byte's cursor and events are those of `react`. -/
theorem react_cursorOf {s : State} (h : s.col ≤ s.cfg.cols) (b : Byte) :
    react s.cfg s.timing (cursorOf s) b = (cursorAt (decodeInput s.esc b) s, eventsAt (decodeInput s.esc b) s) :=
  react_eq_effect h s.timing b

/-- Settles O35: the step is the closed form of its byte's instruction. -/
theorem stepRefinesTheClosedForm : Obligations.StepRefinesTheClosedForm := by
  intro s b hinv hbyte
  obtain ⟨hvalid, -, hcol, -, -⟩ := hinv
  rw [step_eq_after hvalid hbyte, react_cursorOf hcol, after, pcAt_of_in9 (formatOf_decodeInput _ _)]

theorem reactAll_cons (cfg : DisplayConfig) (tm : Timing) (c : Cursor) (b : Byte) (bs : List Byte) :
    reactAll cfg tm c (b :: bs) =
      ((reactAll cfg tm (react cfg tm c b).1 bs).1,
        (react cfg tm c b).2 ++ (reactAll cfg tm (react cfg tm c b).1 bs).2) := rfl

/-- Settles O36: by induction on the number of steps; each one keeps the invariant and what `react` is given. -/
theorem runIsTheFoldOfReactions : Obligations.RunIsTheFoldOfReactions := by
  intro k
  induction k with
  | zero => exact fun s hinv _ => ⟨s, rfl, rfl, hinv, rfl, by simp [reactAll]⟩
  | succ k ih =>
    intro s hinv hk
    have hpc : s.pc < s.stream.length := by omega
    have ⟨hvalid, _, hcol, _, _⟩ := hinv
    have hreact := react_cursorOf hcol s.stream[s.pc]
    have hstep := step_eq_after hvalid (List.getElem?_eq_getElem hpc)
    have hin := formatOf_decodeInput s.esc s.stream[s.pc]
    generalize decodeInput s.esc s.stream[s.pc] = i at hreact hstep hin
    obtain ⟨t, hrun, ht, htinv, hcursor, htrace⟩ := ih (after i s) (engineInv_after hin hpc hinv) (by
      rw [after_pc, pcAt_of_in9 hin, after_stream]
      omega)
    rw [after_cfg, after_timing, cursorOf_after, after_pc, pcAt_of_in9 hin, after_stream] at hcursor htrace
    rw [after_trace] at htrace
    rw [after_pc, pcAt_of_in9 hin] at ht
    rw [List.drop_eq_getElem_cons hpc, List.take_succ_cons, reactAll_cons, hreact]
    exact ⟨t, (run_succ_of_next (M := Sys2Proof.core) k hstep).trans hrun, by omega, htinv, hcursor,
      by rw [htrace, List.append_assoc]⟩

end Sys2Proof.Machine
end

section
/-! SUPPORT. Addresses and configurable bytes (20_memory.md section 2; 30_encoding.md section 7). -/

namespace Sys2Proof.Machine

theorem setaddrByte_toNat : ∀ a : Addr, (setaddrByte a).toNat = 0x80 + a.toNat := by decide

/-- The address of a visible position row by row, with the bounds R53 finds. -/
theorem calcAddr_cases {cfg : DisplayConfig} {r c : Nat} (hvalid : validConfig cfg = true) (h : Visible cfg r c) :
    (r = 0 ∧ calcAddr cfg.cols r c = c ∧ (cfg.lines = 1 ∧ c ≤ 0x4F ∨ 1 < cfg.lines ∧ c ≤ 0x27)) ∨
      (r = 1 ∧ 1 < cfg.lines ∧ calcAddr cfg.cols r c = 0x40 + c ∧ c ≤ 0x27) ∨
      (r = 2 ∧ cfg.lines = 4 ∧ calcAddr cfg.cols r c = cfg.cols + c ∧ cfg.cols + c ≤ 0x27) ∨
      (r = 3 ∧ cfg.lines = 4 ∧ calcAddr cfg.cols r c = 0x40 + cfg.cols + c ∧ cfg.cols + c ≤ 0x27) := by
  obtain ⟨hlines, -, hcells⟩ := bounds_of_validConfig hvalid
  obtain ⟨hr, hc⟩ := h
  have hcols : cfg.lines = 1 ∧ cfg.cols ≤ 80 ∨ cfg.lines = 2 ∧ cfg.cols ≤ 40 ∨ cfg.lines = 4 ∧ cfg.cols ≤ 20 := by
    rcases hlines with hl | hl | hl <;> rw [hl] at hcells <;> omega
  have hrow : r = 0 ∨ r = 1 ∨ r = 2 ∨ r = 3 := by omega
  rcases hrow with rfl | rfl | rfl | rfl
  · exact .inl ⟨rfl, calcAddr_row_zero _ _, by omega⟩
  · exact .inr (.inl ⟨rfl, by omega, calcAddr_row_one _ _, by omega⟩)
  · exact .inr (.inr (.inl ⟨rfl, by omega, calcAddr_row_two _ _, by omega⟩))
  · exact .inr (.inr (.inr ⟨rfl, by omega, calcAddr_row_three _ _, by omega⟩))

theorem calcAddr_le {cfg : DisplayConfig} {r c : Nat} (hvalid : validConfig cfg = true) (h : Visible cfg r c) :
    calcAddr cfg.cols r c ≤ 0x67 := by
  rcases calcAddr_cases hvalid h with h | h | h | h <;> omega

/-- The seven-bit field never truncates a visible address (R53). -/
theorem cellAddr_toNat {cfg : DisplayConfig} {r c : Nat} (hvalid : validConfig cfg = true) (h : Visible cfg r c) :
    (cellAddr cfg.cols r c).toNat = calcAddr cfg.cols r c := by
  have hle := calcAddr_le hvalid h
  rw [cellAddr, BitVec.toNat_ofNat, Nat.mod_eq_of_lt (by omega)]

/-- Settles O40: the bound row by row. -/
theorem cellAddressesFitSevenBits : Obligations.CellAddressesFitSevenBits := fun cfg r c hvalid h =>
  ⟨calcAddr_le hvalid h, cellAddr_toNat hvalid h, by rw [setaddrByte_toNat, cellAddr_toNat hvalid h]⟩

/-- Visible positions have addresses of their own (R54). -/
theorem cellAddr_inj {cfg : DisplayConfig} {r c r' c' : Nat} (hvalid : validConfig cfg = true) (h : Visible cfg r c)
    (h' : Visible cfg r' c') (heq : cellAddr cfg.cols r c = cellAddr cfg.cols r' c') : r = r' ∧ c = c' := by
  have haddr : calcAddr cfg.cols r c = calcAddr cfg.cols r' c' := by
    rw [← cellAddr_toNat hvalid h, heq, cellAddr_toNat hvalid h']
  have ⟨_, hc⟩ := h
  have ⟨_, hc'⟩ := h'
  rcases calcAddr_cases hvalid h with hrow | hrow | hrow | hrow <;>
    rcases calcAddr_cases hvalid h' with hrow' | hrow' | hrow' | hrow' <;> omega

/-- Settles O41. -/
theorem visibleCellsHaveDistinctAddresses : Obligations.VisibleCellsHaveDistinctAddresses :=
  fun _ _ _ _ _ => cellAddr_inj

/-- Settles O29: function set by LINES and FONT, display on by CURSOR and BLINK, and the set-address byte. -/
theorem configurableBytesHaveTheirValues : Obligations.ConfigurableBytesHaveTheirValues := by
  refine ⟨fun c hlines => ?fset, fun c => ?don, setaddrByte_toNat⟩
  case fset =>
    simp only [List.mem_cons, List.not_mem_nil, or_false] at hlines
    rcases hlines with hl | hl | hl <;> by_cases hfont : c.font = .large <;> simp [fsetOf, fsetByte, hl, hfont]
  case don => cases hcursor : c.cursor <;> cases hblink : c.blink <;> simp [donOf, donByte, hcursor, hblink]

end Sys2Proof.Machine
end

section
/-! SUPPORT. The pins (10_state.md R33, R34). -/

namespace Sys2Proof.Machine

theorem setLine_eq_map (line : Option Nat) (v : Bool) : setLine line v = line.toList.map fun l => (l, v) := by
  cases line <;> rfl

/-- Settles O60: an event of a role reaches that role's line, and the four data lines take the bits of the nibble. -/
theorem eventsReachTheirLines : Obligations.EventsReachTheirLines := by
  intro p v nib us b
  refine ⟨?rs, ?rsNone, ?rw, ?rwNone, ?e, ?eNone, ?data, rfl, fun l4 l5 l6 l7 h4 h5 h6 h7 => ⟨?hi, ?lo⟩⟩
  case rs | rw | e =>
    intro l hline
    simp [lineSets, setLine, hline]
  case rsNone | rwNone | eNone =>
    intro hline
    simp [lineSets, setLine, hline]
  case data => simp only [lineSets, setLine_eq_map]
  case hi => simp [lineSets, setLine, h4, h5, h6, h7, hiNibble]
  case lo => simp [lineSets, setLine, h4, h5, h6, h7, loNibble]

end Sys2Proof.Machine
end

section
/-! SUPPORT. DDRAM's canonical form through every event (20_memory.md sections 1 and 6). -/

namespace Sys2Proof.Machine

/-- Only a strobe reaches the display, and a strobe keeps the form. -/
theorem emit_keeps_wf (ev : Event) (s : State) (h : Memory.wf s.display.ddram = true) :
    Memory.wf (emit ev s).display.ddram = true := by
  rcases ev with ⟨⟨⟩, v⟩ | _ | _
  case set.e =>
    rw [emit_e_display]
    split
    · exact receiveStrobe_keeps_wf _ _ _ _ h
    · exact h
  all_goals exact h

theorem emitAll_keeps_wf (l : List Event) (s : State) (h : Memory.wf s.display.ddram = true) :
    Memory.wf (emitAll l s).display.ddram = true := by
  induction l generalizing s with
  | nil => exact h
  | cons ev l ih => exact ih _ (emit_keeps_wf ev s h)

/-- Settles O43: an instruction reaches the display through its events alone. -/
theorem ddramStaysCanonical : Obligations.DdramStaysCanonical := by
  intro i s t hwf hexec
  rw [exec_eq_after] at hexec
  cases hexec
  exact emitAll_keeps_wf _ s hwf

end Sys2Proof.Machine
end

section
/-! SUPPORT. What a step's events are: transfers with their waits, how many events and how much waiting, and the discipline
on the bus (30_encoding.md section 7; 40_signal_transmitter.md section 6; 70_reset_and_hazards.md section 4). -/

namespace Sys2Proof.Machine

/-! ### The bus discipline -/

/-- A disciplined trace ends with E low, so what follows it starts there. -/
theorem busDisciplined_append {lvl : Bool} {l : List Event} (h : busDisciplined lvl l = true) (l' : List Event) :
    busDisciplined lvl (l ++ l') = busDisciplined false l' := by
  induction l generalizing lvl with
  | nil =>
    simp only [busDisciplined, Bool.not_eq_true'] at h
    rw [h, List.nil_append]
  | cons ev l ih =>
    rcases ev with ⟨⟨⟩, v⟩ | n | t <;> simp only [busDisciplined, Bool.and_eq_true] at h <;>
      simp [busDisciplined, h, ih h.2]

theorem busDisciplined_cmdEvents (b : Byte) {t : Nat} (h : 0 < t) : busDisciplined false (cmdEvents b t) = true := by
  simp [cmdEvents, tx, strobeEvents, busDisciplined, h]

theorem busDisciplined_writeEvents (ch : Byte) : busDisciplined false (writeEvents ch) = true := by
  simp [writeEvents, tx, strobeEvents, busDisciplined]

theorem busDisciplined_padEvents (k : Nat) : busDisciplined false (padEvents k) = true := by
  induction k with
  | zero => rfl
  | succ k ih => rw [padEvents_succ, busDisciplined_append (busDisciplined_writeEvents _), ih]

theorem busDisciplined_flashEvents (c : DisplayConfig) {tm : Timing} (h : 0 < tm.tShort) :
    busDisciplined false (flashEvents c tm) = true := by
  simp [flashEvents, busDisciplined_append, busDisciplined_cmdEvents, h]

theorem busDisciplined_txu_wait (r : Bool) (b : Byte) {t : Nat} (h : 0 < t) :
    busDisciplined false (txu r b ++ [.wait t]) = true := by
  simp [txu, strobeEvents, busDisciplined, h]

/-- RESET as its nine transfers, each with its wait. -/
theorem resetEvents_eq (c : DisplayConfig) (tm : Timing) : resetEvents c tm =
    (txu false 0x30#8 ++ [.wait 10000]) ++ ((txu false 0x30#8 ++ [.wait 1000]) ++ ((txu false 0x30#8 ++ [.wait tm.tWake3])
      ++ ((txu false 0x20#8 ++ [.wait tm.tShort]) ++ (cmdEvents (fsetOf c) tm.tShort ++ (cmdEvents 0x08#8 tm.tShort
        ++ (cmdEvents (donOf c) tm.tShort ++ (cmdEvents 0x06#8 tm.tShort ++ cmdEvents 0x01#8 2000))))))) := by
  simp only [resetEvents, List.append_assoc]

theorem busDisciplined_resetEvents (c : DisplayConfig) {tm : Timing} (hwake : 0 < tm.tWake3) (hshort : 0 < tm.tShort) :
    busDisciplined false (resetEvents c tm) = true := by
  rw [resetEvents_eq]
  simp only [busDisciplined_append, busDisciplined_txu_wait, busDisciplined_cmdEvents, hwake, hshort, Nat.ofNat_pos]

/-- With positive OPEN parameters every instruction's events are disciplined. -/
theorem busDisciplined_effect (cfg : DisplayConfig) {tm : Timing} (c : Cursor) (i : Instr) (h : validTiming tm = true) :
    busDisciplined false (effect cfg tm c i).2 = true := by
  simp only [validTiming, Bool.and_eq_true, decide_eq_true_eq] at h
  obtain ⟨hwake, hshort⟩ := h
  have hmove (r k : Nat) : busDisciplined false (repositionEvents cfg.cols r k) = true :=
    busDisciplined_cmdEvents _ (by omega)
  have hflash := busDisciplined_flashEvents cfg hshort
  cases i with
  | escR => exact busDisciplined_resetEvents cfg hwake hshort
  | escH | ff => exact busDisciplined_cmdEvents _ (by omega)
  | nl =>
    simp only [effect]
    split_ifs
    · rw [busDisciplined_append (busDisciplined_padEvents _), hmove]
    · exact busDisciplined_padEvents _
  | cr => exact hmove _ _
  | tab => exact busDisciplined_padEvents _
  | bel => exact hflash
  | bs =>
    simp only [effect]
    split_ifs
    · exact hflash
    · rw [busDisciplined_append (hmove _ _), hmove]
    · rw [List.append_assoc, busDisciplined_append (hmove _ _), busDisciplined_append (busDisciplined_writeEvents _), hmove]
  | putc ch =>
    simp only [effect]
    split_ifs
    · rfl
    · exact busDisciplined_writeEvents ch
  | esc | escOther | drop | wake | mode4 | fset | doff | don | entry | clr | homec | setaddr | data => rfl

/-- Settles O45: a byte's events are disciplined, and they follow a disciplined trace. -/
theorem busDisciplineIsKept : Obligations.BusDisciplineIsKept := by
  intro s t htiming htrace hstep
  obtain ⟨-, rfl⟩ | ⟨b, -, rfl⟩ := step_cases hstep
  · exact ⟨htrace, htiming⟩
  · rw [after_trace, after_timing, busDisciplined_append htrace]
    exact ⟨busDisciplined_effect _ _ _ htiming, htiming⟩

/-! ### Transfers the engine may make -/

/-- Events that are transfers of R92's list, each with a positive wait. -/
def LegalTraffic (evs : List Event) : Prop :=
  ∃ l : List (Instr × Nat), (∀ x ∈ l, legalTransfer x = true) ∧ evs = trafficEvents l

theorem legalTraffic_nil : LegalTraffic [] := ⟨[], nofun, rfl⟩

theorem LegalTraffic.append {evs evs' : List Event} (h : LegalTraffic evs) (h' : LegalTraffic evs') :
    LegalTraffic (evs ++ evs') := by
  obtain ⟨l, hl, rfl⟩ := h
  obtain ⟨l', hl', rfl⟩ := h'
  exact ⟨l ++ l', List.forall_mem_append.2 ⟨hl, hl'⟩, List.flatMap_append.symm⟩

theorem legalTraffic_transfer {i : Instr} {t : Nat} (hbus : formatOf i ≠ .in9) (hwf : WellFormed i = true)
    (ht : 0 < t) : LegalTraffic (transferEvents i ++ [.wait t]) :=
  ⟨[(i, t)], by simp [legalTransfer, hbus, hwf, ht], by simp [trafficEvents]⟩

theorem legalTraffic_writeEvents {ch : Byte} (h : isPrintable ch = true) : LegalTraffic (writeEvents ch) :=
  legalTraffic_transfer (i := .data ch) nofun h (Nat.ofNat_pos)

theorem legalTraffic_padEvents (k : Nat) : LegalTraffic (padEvents k) := by
  induction k with
  | zero => exact legalTraffic_nil
  | succ k ih =>
    rw [padEvents_succ]
    exact (legalTraffic_writeEvents (by decide)).append ih

/-- The set-address command of a visible position is in R92's range (R53). -/
theorem legalTraffic_repositionEvents {cfg : DisplayConfig} {r c : Nat} (hvalid : validConfig cfg = true)
    (h : Visible cfg r c) : LegalTraffic (repositionEvents cfg.cols r c) := by
  have haddr : WellFormed (.setaddr (cellAddr cfg.cols r c)) = true := by
    simpa [WellFormed, cellAddr_toNat hvalid h] using calcAddr_le hvalid h
  exact legalTraffic_transfer (i := .setaddr (cellAddr cfg.cols r c)) nofun haddr (Nat.ofNat_pos)

theorem legalTraffic_off {t : Nat} (h : 0 < t) : LegalTraffic (cmdEvents 0x08#8 t) :=
  legalTraffic_transfer (i := .doff) nofun rfl h

theorem legalTraffic_on (c : DisplayConfig) {t : Nat} (h : 0 < t) : LegalTraffic (cmdEvents (donOf c) t) :=
  legalTraffic_transfer (i := .don c.cursor c.blink) nofun rfl h

theorem legalTraffic_clear : LegalTraffic (cmdEvents 0x01#8 2000) :=
  legalTraffic_transfer (i := .clr) nofun rfl Nat.ofNat_pos

theorem legalTraffic_flashEvents (c : DisplayConfig) {tm : Timing} (h : 0 < tm.tShort) :
    LegalTraffic (flashEvents c tm) :=
  (((legalTraffic_off Nat.ofNat_pos).append (legalTraffic_on c h)).append (legalTraffic_off Nat.ofNat_pos)).append
    (legalTraffic_on c h)

theorem legalTraffic_wake {t : Nat} (h : 0 < t) : LegalTraffic (txu false 0x30#8 ++ [.wait t]) :=
  legalTraffic_transfer (i := .wake 0#4) nofun rfl h

theorem legalTraffic_resetEvents (c : DisplayConfig) {tm : Timing} (hwake : 0 < tm.tWake3) (hshort : 0 < tm.tShort) :
    LegalTraffic (resetEvents c tm) := by
  have hmode4 : LegalTraffic (txu false 0x20#8 ++ [.wait tm.tShort]) :=
    legalTraffic_transfer (i := .mode4 0#4) nofun rfl hshort
  have hfset : LegalTraffic (cmdEvents (fsetOf c) tm.tShort) :=
    legalTraffic_transfer (i := .fset (decide (1 < c.lines)) (decide (c.font = .large))) nofun rfl hshort
  have hentry : LegalTraffic (cmdEvents 0x06#8 tm.tShort) := legalTraffic_transfer (i := .entry) nofun rfl hshort
  rw [resetEvents_eq]
  exact (legalTraffic_wake Nat.ofNat_pos).append <| (legalTraffic_wake Nat.ofNat_pos).append <|
    (legalTraffic_wake hwake).append <| hmode4.append <| hfset.append <| (legalTraffic_off hshort).append <|
    (legalTraffic_on c hshort).append <| hentry.append legalTraffic_clear

/-- On a cursor in range every well-formed input instruction sends only transfers of R92's list. -/
theorem legalTraffic_effect {cfg : DisplayConfig} {tm : Timing} {c : Cursor} {i : Instr} (hvalid : validConfig cfg = true)
    (htiming : validTiming tm = true) (hrow : c.row < cfg.lines) (hcol : c.col ≤ cfg.cols) (hin : formatOf i = .in9)
    (hwf : WellFormed i = true) : LegalTraffic (effect cfg tm c i).2 := by
  simp only [validTiming, Bool.and_eq_true, decide_eq_true_eq] at htiming
  obtain ⟨hwake, hshort⟩ := htiming
  obtain ⟨-, hcols, -⟩ := bounds_of_validConfig hvalid
  have hmove {r k : Nat} (h : Visible cfg r k) := legalTraffic_repositionEvents hvalid h
  have hflash := legalTraffic_flashEvents cfg hshort
  cases i with
  | esc | escOther | drop => exact legalTraffic_nil
  | escR => exact legalTraffic_resetEvents cfg hwake hshort
  | escH => exact legalTraffic_transfer (i := .homec) nofun rfl Nat.ofNat_pos
  | ff => exact legalTraffic_clear
  | nl =>
    rw [effect_nl_of_le hcol]
    split_ifs with hnext
    · exact (legalTraffic_padEvents _).append (hmove ⟨hnext, hcols⟩)
    · exact legalTraffic_padEvents _
  | cr => exact hmove ⟨hrow, hcols⟩
  | tab => exact legalTraffic_padEvents _
  | bel => exact hflash
  | bs =>
    rw [effect_bs_of_le hcol]
    split_ifs with hpos
    · have hleft := hmove ⟨hrow, show c.col - 1 < cfg.cols by omega⟩
      exact (hleft.append (legalTraffic_writeEvents (by decide))).append hleft
    · exact hflash
  | putc ch =>
    rw [effect_putc]
    split_ifs
    · exact legalTraffic_nil
    · exact legalTraffic_writeEvents hwf
  | wake | mode4 | fset | doff | don | entry | clr | homec | setaddr | data => cases hin

/-- Settles O46: the byte's instruction is well formed, and its cursor in range. -/
theorem everyStepSendsOnlyLegalTransfers : Obligations.EveryStepSendsOnlyLegalTransfers := by
  intro s t hinv htiming hstep
  obtain ⟨hvalid, hrow, hcol, -, -⟩ := hinv
  obtain ⟨-, rfl⟩ | ⟨b, -, rfl⟩ := step_cases hstep
  · exact ⟨[], nofun, (List.append_nil _).symm⟩
  · obtain ⟨-, -, hwf⟩ := decodeInput_sound s.esc b
    obtain ⟨l, hl, hevents⟩ :=
      legalTraffic_effect (c := cursorOf s) hvalid htiming hrow hcol (formatOf_decodeInput _ b) hwf
    exact ⟨l, hl, (after_trace _ s).trans (congrArg _ hevents)⟩

/-! ### How many events -/

theorem length_cmdEvents (b : Byte) (t : Nat) : (cmdEvents b t).length = 15 := rfl
theorem length_writeEvents (ch : Byte) : (writeEvents ch).length = 15 := rfl
theorem length_repositionEvents (cols r c : Nat) : (repositionEvents cols r c).length = 15 := rfl
theorem length_flashEvents (c : DisplayConfig) (tm : Timing) : (flashEvents c tm).length = 60 := rfl
theorem length_resetEvents (c : DisplayConfig) (tm : Timing) : (resetEvents c tm).length = 111 := rfl

/-- All but RESET emit transfers of 15 events, at most a full row of them and one more (41_display_ops.md section 12). -/
theorem length_effect {cfg : DisplayConfig} {c : Cursor} {i : Instr} (tm : Timing) (hcols : cfg.cols ≤ 80)
    (hcol : c.col ≤ cfg.cols) (hin : formatOf i = .in9) (hreset : i ≠ .escR) :
    (effect cfg tm c i).2.length ≤ 1215 ∧ (effect cfg tm c i).2.length % 15 = 0 := by
  cases i with
  | escR => exact absurd rfl hreset
  | esc | escOther | drop | escH | ff | cr | bel =>
    simp [effect, length_cmdEvents, length_repositionEvents, length_flashEvents]
  | nl =>
    rw [effect_nl_of_le hcol]
    split_ifs <;> simp only [List.length_append, length_padEvents, length_repositionEvents] <;> omega
  | tab =>
    simp only [effect_tab_of_le hcol, length_padEvents]
    omega
  | bs =>
    rw [effect_bs_of_le hcol]
    split_ifs <;> simp [length_writeEvents, length_repositionEvents, length_flashEvents]
  | putc ch =>
    rw [effect_putc]
    split_ifs <;> simp [length_writeEvents]
  | wake | mode4 | fset | doff | don | entry | clr | homec | setaddr | data => cases hin

/-- Settles O47: RESET has its 111 events, any other byte whole transfers. -/
theorem eventCountsAreBounded : Obligations.EventCountsAreBounded := by
  intro s t b hinv hbyte hstep
  obtain ⟨hvalid, -, hcol, -, -⟩ := hinv
  rw [eq_after_of_step hbyte hstep]
  refine ⟨_, after_trace _ s, ?_⟩
  have hin := formatOf_decodeInput s.esc b
  generalize decodeInput s.esc b = i at hin
  by_cases hreset : i = .escR
  · rw [if_pos hreset, hreset]
    exact ⟨by simp [eventsAt, effect, length_resetEvents], length_resetEvents _ _⟩
  · rw [if_neg hreset]
    exact length_effect (c := cursorOf s) s.timing (cols_le_of_validConfig hvalid) hcol hin hreset

/-! ### How much waiting -/

theorem waitTotal_cmdEvents (b : Byte) (t : Nat) : waitTotal (cmdEvents b t) = 160 + t := by
  simp [cmdEvents, waitTotal]

theorem waitTotal_writeEvents (ch : Byte) : waitTotal (writeEvents ch) = 200 := by
  simp [writeEvents, waitTotal]

theorem waitTotal_repositionEvents (cols r c : Nat) : waitTotal (repositionEvents cols r c) = 1160 :=
  waitTotal_cmdEvents _ _

theorem waitTotal_flashEvents (c : DisplayConfig) (tm : Timing) :
    waitTotal (flashEvents c tm) = 400640 + 2 * tm.tShort := by
  simp only [flashEvents, waitTotal_append, waitTotal_cmdEvents]
  omega

theorem waitTotal_resetEvents (c : DisplayConfig) (tm : Timing) :
    waitTotal (resetEvents c tm) = 14120 + tm.tWake3 + 5 * tm.tShort := by
  simp only [resetEvents, waitTotal_append, waitTotal_cmdEvents, waitTotal_txu, waitTotal]
  omega

theorem waitTotal_effect_putc (cfg : DisplayConfig) (tm : Timing) (c : Cursor) (ch : Byte) :
    waitTotal (effect cfg tm c (.putc ch)).2 = if c.col = cfg.cols then 0 else 200 := by
  rw [effect_putc]
  split_ifs
  · rfl
  · exact waitTotal_writeEvents ch

theorem waitTotal_effect_nl {cfg : DisplayConfig} {c : Cursor} (h : c.col ≤ cfg.cols) (tm : Timing) :
    waitTotal (effect cfg tm c .nl).2 = 200 * (cfg.cols - c.col) + if c.row + 1 < cfg.lines then 1160 else 0 := by
  rw [effect_nl_of_le h]
  split_ifs <;> simp [waitTotal_padEvents, waitTotal_repositionEvents]

theorem waitTotal_effect_bs {cfg : DisplayConfig} {c : Cursor} (h : c.col ≤ cfg.cols) (tm : Timing) :
    waitTotal (effect cfg tm c .bs).2 = if 0 < c.col then 2520 else 400640 + 2 * tm.tShort := by
  rw [effect_bs_of_le h]
  split_ifs
  · simp [waitTotal_repositionEvents, waitTotal_writeEvents]
  · exact waitTotal_flashEvents cfg tm

/-- The waits of an instruction's events are those its answer adds to the trace. -/
theorem exists_waitTotal (i : Instr) (s : State) {n : Nat} (h : waitTotal (eventsAt i s) = n) :
    ∃ t evs, exec i s = .next t ∧ t.trace = s.trace ++ evs ∧ waitTotal evs = n :=
  ⟨after i s, eventsAt i s, exec_eq_after i s, after_trace i s, h⟩

/-- Settles O48: the sum of each instruction's closed form. -/
theorem waitSumsOfTheOperations : Obligations.WaitSumsOfTheOperations := fun s ch hcol =>
  ⟨exists_waitTotal _ s (waitTotal_effect_putc _ _ _ ch), exists_waitTotal .ff s (waitTotal_cmdEvents _ _),
    exists_waitTotal .escH s (waitTotal_cmdEvents _ _), exists_waitTotal .cr s (waitTotal_repositionEvents _ _ _),
    exists_waitTotal .escR s (waitTotal_resetEvents _ _), exists_waitTotal .bel s (waitTotal_flashEvents _ _),
    exists_waitTotal _ s (waitTotal_effect_nl hcol _), exists_waitTotal .tab s (waitTotal_padEvents _),
    exists_waitTotal _ s (waitTotal_effect_bs hcol _)⟩

/-! ### The pinned cursor -/

theorem rs_true_not_mem_flashEvents (c : DisplayConfig) (tm : Timing) : Event.set .rs true ∉ flashEvents c tm := by
  simp [flashEvents, cmdEvents, tx, strobeEvents]

/-- At the right edge an instruction that does not reposition leaves the cursor there and sends no character (R23). -/
theorem effect_of_pinned {cfg : DisplayConfig} {c : Cursor} {i : Instr} (tm : Timing) (hcol : c.col = cfg.cols)
    (hin : formatOf i = .in9) (hstay : i ∉ [.cr, .bs, .ff, .escH, .escR]) (hnl : ¬ (i = .nl ∧ c.row + 1 < cfg.lines)) :
    (effect cfg tm c i).1.col = cfg.cols ∧ (effect cfg tm c i).1.row = c.row ∧
      Event.set .rs true ∉ (effect cfg tm c i).2 := by
  have hpad : padEvents 0 = [] := rfl
  cases i with
  | cr | bs | ff | escH | escR => simp at hstay
  | esc | escOther | drop => exact ⟨hcol, rfl, nofun⟩
  | nl =>
    have hlast : ¬ c.row + 1 < cfg.lines := fun h => hnl ⟨rfl, h⟩
    simp [effect_nl_of_le hcol.le, hlast, hcol, hpad]
  | tab => simp [effect_tab_of_le hcol.le, hcol, hpad]
  | bel => exact ⟨hcol, rfl, rs_true_not_mem_flashEvents cfg tm⟩
  | putc ch => simp [effect_putc, hcol]
  | wake | mode4 | fset | doff | don | entry | clr | homec | setaddr | data => cases hin

/-- Settles O39. -/
theorem pinnedCursorStaysPinned : Obligations.PinnedCursorStaysPinned := by
  intro s t b _ hcol hbyte hstep hstay hnl
  rw [eq_after_of_step hbyte hstep]
  obtain ⟨hcol', hrow, hevents⟩ :=
    effect_of_pinned (c := cursorOf s) s.timing hcol (formatOf_decodeInput s.esc b) hstay hnl
  exact ⟨hcol', hrow, _, after_trace _ s, hevents⟩

end Sys2Proof.Machine
end

section
/-! SUPPORT. The display under a whole transfer and under a strobe, state by state (20_memory.md R62). -/

namespace Sys2Proof.Machine

/-- A full transfer as the display sees it: two strobes, the upper nibble first (R102). -/
def transfer (cfg : DisplayConfig) (r : Bool) (b : Byte) (dsp : Display) : Display :=
  receiveStrobe cfg r (loNibble b) (receiveStrobe cfg r (hiNibble b) dsp)

/-! ### What events reach the display -/

theorem display_tx (r : Bool) (b : Byte) (s : State) :
    (emitAll (tx r b) s).display = transfer s.cfg r b s.display := by
  rw [emitAll_tx]
  rfl

theorem display_txu (r : Bool) (b : Byte) (s : State) :
    (emitAll (txu r b) s).display = receiveStrobe s.cfg r (hiNibble b) s.display := by
  rw [emitAll_txu]

theorem display_wait (t : Nat) (s : State) : (emitAll [.wait t] s).display = s.display := rfl

theorem display_append_wait (l : List Event) (t : Nat) (s : State) :
    (emitAll (l ++ [.wait t]) s).display = (emitAll l s).display := by
  rw [emitAll_append, display_wait]

theorem display_cmdEvents (b : Byte) (t : Nat) (s : State) :
    (emitAll (cmdEvents b t) s).display = transfer s.cfg false b s.display :=
  (display_append_wait _ t s).trans (display_tx false b s)

theorem display_writeEvents (ch : Byte) (s : State) :
    (emitAll (writeEvents ch) s).display = transfer s.cfg true ch s.display :=
  (display_append_wait _ 40 s).trans (display_tx true ch s)

theorem display_repositionEvents (cols r c : Nat) (s : State) :
    (emitAll (repositionEvents cols r c) s).display = transfer s.cfg false (setaddrByte (cellAddr cols r c)) s.display :=
  display_cmdEvents _ _ s

/-! ### An aligned display takes whole bytes -/

section
variable (cfg : DisplayConfig) {dsp : Display}

theorem transfer_clear (h : Aligned dsp) : transfer cfg false 0x01#8 dsp =
    { dsp with ddram := Memory.blank, ac := 0#7, inc := true, strobes := dsp.strobes + 2 } := by
  rw [transfer, receive_full _ _ _ _ _ h, receive_clear, ← h.2]

theorem transfer_home (h : Aligned dsp) : transfer cfg false 0x02#8 dsp =
    { dsp with ac := 0#7, strobes := dsp.strobes + 2 } := by
  rw [transfer, receive_full _ _ _ _ _ h, receive_home, ← h.2]

theorem transfer_entry (h : Aligned dsp) : transfer cfg false 0x06#8 dsp =
    { dsp with inc := true, strobes := dsp.strobes + 2 } := by
  rw [transfer, receive_full _ _ _ _ _ h, receive_entry, ← h.2]

theorem transfer_off (h : Aligned dsp) : transfer cfg false 0x08#8 dsp =
    { dsp with on := false, cur := false, blk := false, strobes := dsp.strobes + 2 } := by
  rw [transfer, receive_full _ _ _ _ _ h, receive_off, ← h.2]

theorem transfer_on (h : Aligned dsp) (x y : Bool) : transfer cfg false (donByte x y) dsp =
    { dsp with on := true, cur := x, blk := y, strobes := dsp.strobes + 2 } := by
  rw [transfer, receive_full _ _ _ _ _ h, receive_on, ← h.2]

theorem transfer_function (h : Aligned dsp) (x y : Bool) : transfer cfg false (fsetByte x y) dsp =
    { dsp with n := x, f := y, strobes := dsp.strobes + 2 } := by
  rw [transfer, receive_full _ _ _ _ _ h, receive_function, ← h.1, ← h.2]

theorem transfer_setaddr (h : Aligned dsp) (a : Addr) : transfer cfg false (setaddrByte a) dsp =
    { dsp with ac := a, strobes := dsp.strobes + 2 } := by
  rw [transfer, receive_full _ _ _ _ _ h, receive_address, ← h.2]

theorem transfer_data (h : Aligned dsp) (b : Byte) : transfer cfg true b dsp =
    { dsp with
      ddram := Memory.write dsp.ddram dsp.ac.toNat b, ac := nextAc cfg { dsp with strobes := dsp.strobes + 1 },
      strobes := dsp.strobes + 2 } := by
  rw [transfer, receive_full _ _ _ _ _ h, receive_data, ← h.2]

end

/-- Inside a row and a line the address counter goes up by one (R62). -/
theorem nextAc_of_inside {cfg : DisplayConfig} {dsp : Display} (hinc : dsp.inc = true)
    (hrow : atRowEnd cfg dsp.ac = false) (hline : atLineEnd dsp = false) : nextAc cfg dsp = dsp.ac + 1#7 := by
  simp [nextAc, hinc, hrow, hline]

theorem cell_write (m : Memory) (a c : Addr) (b : Byte) :
    Memory.read (Memory.write m a.toNat b) c.toNat = if c = a then some b else Memory.read m c.toNat := by
  split_ifs with hc
  · rw [hc, Memory.read_write_same]
  · exact Memory.read_write_other m _ _ b fun h => hc (BitVec.eq_of_toNat_eq h)

/-- After a clear every cell holds a space (R62). -/
theorem cell_of_blank {dsp : Display} (h : dsp.ddram = Memory.blank) (a : Addr) : cell dsp a = some 0x20#8 := by
  rw [cell, h]
  exact Memory.read_blank a

/-- A byte is stored at the address counter and nowhere else (R62). -/
theorem cell_transfer_data (cfg : DisplayConfig) {dsp : Display} (h : Aligned dsp) (b : Byte) (c : Addr) :
    cell (transfer cfg true b dsp) c = if c = dsp.ac then some b else cell dsp c := by
  rw [transfer_data cfg h]
  exact cell_write _ _ _ _

theorem aligned_transfer_data (cfg : DisplayConfig) {dsp : Display} (h : Aligned dsp) (b : Byte) :
    Aligned (transfer cfg true b dsp) := by
  rw [transfer_data cfg h]
  exact h

/-- A full transfer instruction is one transfer to the display. -/
theorem exists_display_of_busFull {i : Instr} (hfull : formatOf i = .busFull) {s : State} {dsp : Display}
    (h : transfer s.cfg (topBitOf i) (byteOf i) s.display = dsp) : ∃ t, exec i s = .next t ∧ t.display = dsp :=
  ⟨_, exec_of_busFull hfull s, (display_tx _ _ s).trans h⟩

/-- Settles O52: one law per byte of R62. -/
theorem alignedDisplayObeysFullTransfers : Obligations.AlignedDisplayObeysFullTransfers := by
  intro s x y a ch h
  refine ⟨?clr, exists_display_of_busFull (i := .homec) rfl (transfer_home s.cfg h),
    exists_display_of_busFull (i := .setaddr a) rfl (transfer_setaddr s.cfg h a),
    exists_display_of_busFull (i := .entry) rfl (transfer_entry s.cfg h),
    exists_display_of_busFull (i := .doff) rfl (transfer_off s.cfg h),
    exists_display_of_busFull (i := .don x y) rfl (transfer_on s.cfg h x y),
    exists_display_of_busFull (i := .fset x y) rfl (transfer_function s.cfg h x y), ?data⟩
  case clr =>
    obtain ⟨t, hexec, hdsp⟩ := exists_display_of_busFull (i := .clr) rfl (transfer_clear s.cfg h)
    refine ⟨t, hexec, by rw [hdsp], ?_⟩
    rw [hdsp]
    exact cell_of_blank rfl
  case data =>
    obtain ⟨t, hexec, hdsp⟩ := exists_display_of_busFull (i := .data ch) rfl (transfer_data s.cfg h ch)
    refine ⟨t, hexec, by rw [hdsp], fun c => ?_, fun hinc hrow hline => ?_⟩
    · rw [hdsp]
      exact cell_write _ _ _ _
    · rw [hdsp]
      exact nextAc_of_inside hinc hrow hline

/-! ### One strobe, in each interface state -/

section
variable (cfg : DisplayConfig) {dsp : Display}

theorem receiveStrobe_eightBit (h : dsp.mode4 = false) (r : Bool) (nib : Nibble) : receiveStrobe cfg r nib dsp =
    { receiveByte cfg r nib (Config.freeNibble dsp.strobes) dsp with strobes := dsp.strobes + 1 } := by
  simp [receiveStrobe, h]

theorem receiveStrobe_latch (h : Aligned dsp) (r : Bool) (nib : Nibble) : receiveStrobe cfg r nib dsp =
    { dsp with half := some nib, strobes := dsp.strobes + 1 } := by
  simp [receiveStrobe, h.1, h.2]

theorem receiveStrobe_complete {hi : Nibble} (h : dsp.mode4 = true) (hhi : dsp.half = some hi) (r : Bool) (nib : Nibble) :
    receiveStrobe cfg r nib dsp = { receiveByte cfg r hi nib dsp with strobes := dsp.strobes + 1 } := by
  simp [receiveStrobe, h, hhi]

end

/-- The function-set nibbles 2 and 3: they choose 4-bit and 8-bit mode, whatever the lower nibble is. -/
theorem receiveCommand_two (lo : Nibble) (dsp : Display) : receiveCommand 0x2#4 lo dsp =
    { dsp with mode4 := true, n := lo.getLsbD 3, f := lo.getLsbD 2 } := rfl

theorem receiveCommand_three (lo : Nibble) (dsp : Display) : receiveCommand 0x3#4 lo dsp =
    { dsp with mode4 := false, n := lo.getLsbD 3, f := lo.getLsbD 2 } := rfl

theorem receiveCommand_setaddr {hi : Nibble} (h : 0x8 ≤ hi.toNat) (lo : Nibble) (dsp : Display) :
    receiveCommand hi lo dsp = { dsp with ac := (hi ++ lo).extractLsb' 0 7 } := by
  have hbit : ∀ hi : Nibble, 0x8 ≤ hi.toNat → hi.getLsbD 3 = true := by decide
  rw [receiveCommand, if_pos (hbit hi h)]

/-- The upper nibbles for which R62 gives no effect (log entry 10). -/
theorem receiveCommand_unlisted {hi : Nibble} (h : hi = 0x1#4 ∨ (0x4 ≤ hi.toNat ∧ hi.toNat ≤ 0x7)) (lo : Nibble)
    (dsp : Display) : receiveCommand hi lo dsp = receiveUnlisted dsp := by
  have hbits : ∀ hi : Nibble, 0x4 ≤ hi.toNat ∧ hi.toNat ≤ 0x7 → ¬ hi.getLsbD 3 = true ∧ hi.getLsbD 2 = true := by decide
  rcases h with rfl | h
  · rfl
  · rw [receiveCommand, if_neg (hbits hi h).1, if_pos (hbits hi h).2]

/-- Home, from the lower nibbles 2 and 3 that the half transfers send. -/
theorem receiveCommand_home {lo : Nibble} (h : lo = 0x3#4 ∨ lo = 0x2#4) (dsp : Display) :
    receiveCommand 0x0#4 lo dsp = { dsp with ac := 0#7 } := by
  rcases h with rfl | rfl <;> rfl

theorem exists_display_wake (lo : Nibble) (s : State) :
    ∃ t, exec (.wake lo) s = .next t ∧ t.display = receiveStrobe s.cfg false 0x3#4 s.display :=
  ⟨_, exec_wake lo s, display_txu _ _ s⟩

theorem exists_display_mode4 (lo : Nibble) (s : State) :
    ∃ t, exec (.mode4 lo) s = .next t ∧ t.display = receiveStrobe s.cfg false 0x2#4 s.display :=
  ⟨_, exec_mode4 lo s, display_txu _ _ s⟩

/-- Settles O53: one strobe of nibble 3 or 2, in 8-bit mode, in 4-bit mode, and completing each latched nibble. -/
theorem halfTransfersReachEveryDisplay : Obligations.HalfTransfersReachEveryDisplay := by
  intro s lo
  refine ⟨fun h8 => ⟨?wake8, ?mode8⟩, fun i nib hi4 h4 => ?four⟩
  case wake8 =>
    obtain ⟨t, hexec, hdsp⟩ := exists_display_wake lo s
    refine ⟨t, hexec, ?_⟩
    rw [hdsp, receiveStrobe_eightBit s.cfg h8]
    exact ⟨rfl, rfl, rfl, rfl⟩
  case mode8 =>
    obtain ⟨t, hexec, hdsp⟩ := exists_display_mode4 lo s
    refine ⟨t, hexec, ?_⟩
    rw [hdsp, receiveStrobe_eightBit s.cfg h8]
    exact ⟨⟨rfl, rfl⟩, rfl, rfl⟩
  case four =>
    obtain ⟨t, hexec, hdsp⟩ : ∃ t, exec i s = .next t ∧ t.display = receiveStrobe s.cfg false nib s.display := by
      rcases hi4 with ⟨rfl, rfl⟩ | ⟨rfl, rfl⟩
      · exact exists_display_wake lo s
      · exact exists_display_mode4 lo s
    have hnib : nib = 0x3#4 ∨ nib = 0x2#4 := hi4.imp And.right And.right
    have hnf : nib.getLsbD 3 = false ∧ nib.getLsbD 2 = false := by rcases hnib with rfl | rfl <;> exact ⟨rfl, rfl⟩
    refine ⟨fun hnone => ⟨t, hexec, hdsp.trans (receiveStrobe_latch s.cfg ⟨h4, hnone⟩ false nib)⟩, fun hi hhalf => ?_⟩
    rw [receiveStrobe_complete s.cfg h4 hhalf] at hdsp
    refine ⟨t, hexec, ?home, ?two, ?three, ?setaddr, ?unlisted⟩
    case home =>
      rintro rfl
      rw [hdsp, receiveByte, if_neg Bool.false_ne_true, receiveCommand_home hnib]
    case two =>
      rintro rfl
      rw [hdsp, receiveByte, if_neg Bool.false_ne_true, receiveCommand_two, hnf.1, hnf.2, ← h4]
    case three =>
      rintro rfl
      rw [hdsp, receiveByte, if_neg Bool.false_ne_true, receiveCommand_three, hnf.1, hnf.2]
    case setaddr =>
      intro h
      rw [hdsp, receiveByte, if_neg Bool.false_ne_true, receiveCommand_setaddr h]
    case unlisted =>
      intro h
      rw [hdsp, receiveByte, if_neg Bool.false_ne_true, receiveCommand_unlisted h]
      rfl

end Sys2Proof.Machine
end

section
/-! SUPPORT. RESET before a display in any state (70_reset_and_hazards.md R225): the three wake strobes bring it into 8-bit
mode, the mode switch aligns it, and the full transfers configure it. -/

namespace Sys2Proof.Machine

/-- Among the commands only function set with upper nibble 3 leaves 4-bit mode. -/
theorem mode4_receiveCommand {hi : Nibble} (hne : hi ≠ 0x3#4) (lo : Nibble) {dsp : Display} (h : dsp.mode4 = true) :
    (receiveCommand hi lo dsp).mode4 = true := by
  have hbits : ∀ hi : Nibble, hi ≠ 0x3#4 → ¬ hi.getLsbD 3 = true → ¬ hi.getLsbD 2 = true → hi.getLsbD 1 = true →
      (!hi.getLsbD 0) = true := by decide
  unfold receiveCommand
  split_ifs with h3 h2 h1
  · exact h
  · exact h
  · exact hbits hi hne h3 h2 h1
  all_goals exact h

theorem half_receiveCommand (hi lo : Nibble) (dsp : Display) : (receiveCommand hi lo dsp).half = dsp.half := by
  unfold receiveCommand
  split_ifs <;> rfl

theorem wake_keeps_eightBit (cfg : DisplayConfig) {dsp : Display} (h : dsp.mode4 = false) :
    (receiveStrobe cfg false 0x3#4 dsp).mode4 = false := by
  rw [receiveStrobe_eightBit cfg h]
  rfl

/-- The byte 0x33 selects 8-bit mode. -/
theorem wake_of_latched_three (cfg : DisplayConfig) {dsp : Display} (h : dsp.mode4 = true)
    (hhalf : dsp.half = some 0x3#4) : (receiveStrobe cfg false 0x3#4 dsp).mode4 = false := by
  rw [receiveStrobe_complete cfg h hhalf]
  rfl

/-- Any other latched nibble is completed, and the display is aligned. -/
theorem wake_of_latched {cfg : DisplayConfig} {dsp : Display} {hi : Nibble} (h : dsp.mode4 = true)
    (hhalf : dsp.half = some hi) (hne : hi ≠ 0x3#4) : Aligned (receiveStrobe cfg false 0x3#4 dsp) := by
  rw [receiveStrobe_complete cfg h hhalf]
  exact ⟨mode4_receiveCommand hne _ h, half_receiveCommand _ _ _⟩

/-- Two wake strobes bring an aligned display into 8-bit mode: the first is latched, the second completes 0x33. -/
theorem two_wakes_of_aligned (cfg : DisplayConfig) {dsp : Display} (h : Aligned dsp) :
    (receiveStrobe cfg false 0x3#4 (receiveStrobe cfg false 0x3#4 dsp)).mode4 = false := by
  rw [receiveStrobe_latch cfg h]
  exact wake_of_latched_three cfg h.1 rfl

/-- Three wake strobes bring every display into 8-bit mode. -/
theorem three_wakes (cfg : DisplayConfig) (dsp : Display) :
    (receiveStrobe cfg false 0x3#4 (receiveStrobe cfg false 0x3#4 (receiveStrobe cfg false 0x3#4 dsp))).mode4 = false := by
  cases hmode : dsp.mode4 with
  | false => exact wake_keeps_eightBit cfg (wake_keeps_eightBit cfg (wake_keeps_eightBit cfg hmode))
  | true =>
    cases hhalf : dsp.half with
    | none => exact wake_keeps_eightBit cfg (two_wakes_of_aligned cfg ⟨hmode, hhalf⟩)
    | some hi =>
      by_cases hthree : hi = 0x3#4
      · rw [hthree] at hhalf
        exact wake_keeps_eightBit cfg (wake_keeps_eightBit cfg (wake_of_latched_three cfg hmode hhalf))
      · exact two_wakes_of_aligned cfg (wake_of_latched hmode hhalf hthree)

/-- The mode switch leaves an 8-bit display aligned. -/
theorem aligned_mode_switch (cfg : DisplayConfig) {dsp : Display} (h : dsp.mode4 = false) :
    Aligned (receiveStrobe cfg false 0x2#4 dsp) := by
  rw [receiveStrobe_eightBit cfg h]
  exact ⟨rfl, rfl⟩

/-- The full transfers of RESET configure and blank an aligned display. -/
theorem display_configure (cfg c : DisplayConfig) {dsp : Display} (h : Aligned dsp) :
    transfer cfg false 0x01#8 (transfer cfg false 0x06#8 (transfer cfg false (donOf c) (transfer cfg false 0x08#8
      (transfer cfg false (fsetOf c) dsp)))) =
      { dsp with
        n := decide (1 < c.lines), f := decide (c.font = .large), on := true, cur := c.cursor, blk := c.blink,
        ddram := Memory.blank, ac := 0#7, inc := true, strobes := dsp.strobes + 10 } := by
  rw [fsetOf, donOf, transfer_function, transfer_off, transfer_on, transfer_entry, transfer_clear] <;> exact h

/-- RESET leaves every display configured and blank, with the address counter at 0 (R225). -/
theorem display_resetEvents (tm : Timing) (s : State) :
    Configured s.cfg (emitAll (resetEvents s.cfg tm) s).display ∧ (emitAll (resetEvents s.cfg tm) s).display.ac = 0#7 ∧
      (emitAll (resetEvents s.cfg tm) s).display.ddram = Memory.blank := by
  have haligned := aligned_mode_switch s.cfg (three_wakes s.cfg s.display)
  have hthree : hiNibble 0x30#8 = 0x3#4 := rfl
  have htwo : hiNibble 0x20#8 = 0x2#4 := rfl
  simp only [resetEvents, emitAll_append, display_cmdEvents, display_wait, display_txu, emitAll_cfg, hthree, htwo]
  rw [display_configure s.cfg s.cfg haligned]
  exact ⟨⟨haligned, rfl, rfl, rfl, rfl, rfl, rfl⟩, rfl, rfl⟩

/-- Settles O54: the cells are those of a clear. -/
theorem escRRecoversEveryDisplay : Obligations.EscRRecoversEveryDisplay := by
  intro s
  obtain ⟨hconfigured, hac, hblank⟩ := display_resetEvents s.timing s
  refine ⟨after .escR s, exec_eq_after _ s, ?_⟩
  rw [after_display, eventsAt_escR]
  exact ⟨hconfigured, hac, cell_of_blank hblank, rfl, rfl⟩

end Sys2Proof.Machine
end

section
/-! SUPPORT. What each input instruction makes of an aligned display (20_memory.md section 6; 41_display_ops.md
section 12). -/

namespace Sys2Proof.Machine

/-- One cycle of FLASH: display off, then on again (R136). -/
theorem transfer_off_on (cfg c : DisplayConfig) {dsp : Display} (h : Aligned dsp) :
    transfer cfg false (donOf c) (transfer cfg false 0x08#8 dsp) =
      { dsp with on := true, cur := c.cursor, blk := c.blink, strobes := dsp.strobes + 4 } := by
  rw [donOf, transfer_off cfg h, transfer_on]
  exact h

theorem display_flashEvents (c : DisplayConfig) (tm : Timing) {s : State} (h : Aligned s.display) :
    (emitAll (flashEvents c tm) s).display =
      { s.display with on := true, cur := c.cursor, blk := c.blink, strobes := s.display.strobes + 8 } := by
  simp only [flashEvents, emitAll_append, display_cmdEvents, emitAll_cfg]
  rw [transfer_off_on s.cfg c h, transfer_off_on]
  exact h

/-- The move left, the space and the move back store one space at the cell moved to (R138). -/
theorem display_eraseEvents (cols r c : Nat) {s : State} (h : Aligned s.display) :
    (emitAll (repositionEvents cols r c ++ writeEvents 0x20#8 ++ repositionEvents cols r c) s).display =
      { s.display with
        ddram := Memory.write s.display.ddram (cellAddr cols r c).toNat 0x20#8, ac := cellAddr cols r c,
        strobes := s.display.strobes + 6 } := by
  simp only [emitAll_append, display_repositionEvents, display_writeEvents, emitAll_cfg]
  rw [transfer_setaddr s.cfg h, transfer_data, transfer_setaddr] <;> exact h

/-- The clear command blanks the display and homes its address counter (R124). -/
theorem display_clearEvents {s : State} (h : Aligned s.display) : (emitAll (cmdEvents 0x01#8 2000) s).display =
    { s.display with ddram := Memory.blank, ac := 0#7, inc := true, strobes := s.display.strobes + 2 } :=
  (display_cmdEvents _ _ s).trans (transfer_clear s.cfg h)

/-- An instruction's answer when its events are known. -/
theorem exists_display {i : Instr} {s : State} {evs : List Event} (h : eventsAt i s = evs) :
    ∃ t, exec i s = .next t ∧ t.display = (emitAll evs s).display :=
  ⟨after i s, exec_eq_after i s, by rw [after_display, h]⟩

theorem eventsAt_putc {s : State} (h : s.col ≠ s.cfg.cols) (ch : Byte) : eventsAt (.putc ch) s = writeEvents ch := by
  simp [eventsAt, effect_putc, h]

theorem eventsAt_putc_of_pinned {s : State} (h : s.col = s.cfg.cols) (ch : Byte) : eventsAt (.putc ch) s = [] := by
  simp [eventsAt, effect_putc, h]

theorem eventsAt_bs_of_zero {s : State} (h : s.col = 0) : eventsAt .bs s = flashEvents s.cfg s.timing := by
  simp [eventsAt, effect, h]

theorem eventsAt_bs_of_pos {s : State} (hpos : 0 < s.col) (hcol : s.col ≤ s.cfg.cols) : eventsAt .bs s =
    repositionEvents s.cfg.cols s.row (s.col - 1) ++ writeEvents 0x20#8
      ++ repositionEvents s.cfg.cols s.row (s.col - 1) := by
  rw [eventsAt, effect_bs_of_le hcol]
  simp [hpos]

theorem eventsAt_nl_of_lt {s : State} (h : s.row + 1 < s.cfg.lines) : eventsAt .nl s =
    padEvents (s.cfg.cols - s.col) ++ repositionEvents s.cfg.cols (s.row + 1) 0 := by
  simp [eventsAt, effect, h]

theorem eventsAt_nl_of_last {s : State} (h : ¬ s.row + 1 < s.cfg.lines) :
    eventsAt .nl s = padEvents (s.cfg.cols - s.col) := by
  simp [eventsAt, effect, h]

/-- Settles O57: the one transfer PUTC makes, at the address counter. -/
theorem putcStoresAtTheAddressCounter : Obligations.PutcStoresAtTheAddressCounter := by
  intro s ch h hcol
  obtain ⟨t, hexec, hdsp⟩ := exists_display (eventsAt_putc hcol ch)
  rw [display_writeEvents] at hdsp
  refine ⟨t, hexec, ?_, fun a => ?_, fun ⟨⟨_, _, hle, _, _⟩, _, hac⟩ => hac (by omega)⟩
  · rw [hdsp]
    exact aligned_transfer_data s.cfg h ch
  · rw [hdsp, cell_transfer_data s.cfg h]

/-- Settles O59: BS stores at the cell it moves to, and FF is a clear. -/
theorem backspaceAndFormFeedStore : Obligations.BackspaceAndFormFeedStore := by
  refine fun s h => ⟨fun hpos hcol => ?bs, ?ff⟩
  case bs =>
    obtain ⟨t, hexec, hdsp⟩ := exists_display (eventsAt_bs_of_pos hpos hcol)
    rw [display_eraseEvents _ _ _ h] at hdsp
    refine ⟨t, hexec, by rw [hdsp]; exact h, by rw [hdsp], fun a => ?_⟩
    rw [hdsp]
    exact cell_write _ _ _ _
  case ff =>
    obtain ⟨t, hexec, hdsp⟩ := exists_display (eventsAt_ff s)
    rw [display_clearEvents h] at hdsp
    refine ⟨t, hexec, ?_⟩
    rw [hdsp]
    exact ⟨h, rfl, cell_of_blank rfl⟩

/-! ### What stores nothing -/

/-- A display that is aligned and holds what `dsp` holds. -/
def KeepsCells (dsp dsp' : Display) : Prop := Aligned dsp' ∧ ∀ a, cell dsp' a = cell dsp a

theorem keepsCells_self {dsp : Display} (h : Aligned dsp) : KeepsCells dsp dsp := ⟨h, fun _ => rfl⟩

theorem keepsCells_reposition (cols r c : Nat) {s : State} (h : Aligned s.display) :
    KeepsCells s.display (emitAll (repositionEvents cols r c) s).display := by
  rw [display_repositionEvents, transfer_setaddr s.cfg h]
  exact ⟨h, fun _ => rfl⟩

theorem keepsCells_flash (c : DisplayConfig) (tm : Timing) {s : State} (h : Aligned s.display) :
    KeepsCells s.display (emitAll (flashEvents c tm) s).display := by
  rw [display_flashEvents c tm h]
  exact ⟨h, fun _ => rfl⟩

theorem keepsCells_home {s : State} (h : Aligned s.display) :
    KeepsCells s.display (emitAll (cmdEvents 0x02#8 2000) s).display := by
  rw [display_cmdEvents, transfer_home s.cfg h]
  exact ⟨h, fun _ => rfl⟩

/-- At the right edge NL pads nothing: it moves to the next row, or does nothing (R133 b). -/
theorem keepsCells_nl_of_pinned {s : State} (h : Aligned s.display) (hcol : s.col = s.cfg.cols) :
    KeepsCells s.display (emitAll (eventsAt .nl s) s).display := by
  have hpad : padEvents (s.cfg.cols - s.col) = [] := by
    rw [hcol, Nat.sub_self]
    rfl
  by_cases hrow : s.row + 1 < s.cfg.lines
  · rw [eventsAt_nl_of_lt hrow, hpad]
    exact keepsCells_reposition _ _ _ h
  · rw [eventsAt_nl_of_last hrow, hpad]
    exact keepsCells_self h

theorem eventsAt_tab_of_pinned {s : State} (h : s.col = s.cfg.cols) : eventsAt .tab s = [] := by
  simp [eventsAt, effect, tabWidth, h, padEvents]

/-- Settles O32: the events of each form, none of which is a data write. -/
theorem nonStoringInstructionsKeepEveryCell : Obligations.NonStoringInstructionsKeepEveryCell := by
  intro s b h
  refine ⟨fun i hi => ⟨after i s, exec_eq_after i s, ?cells⟩, fun i hi => ⟨after i s, exec_eq_after i s, ?display⟩⟩
  case cells =>
    rw [after_display]
    rcases hi with rfl | rfl | rfl | ⟨rfl, hcol⟩ | ⟨rfl, hcol⟩ | ⟨rfl, hcol⟩ | ⟨rfl, hcol⟩
    · rw [eventsAt_cr]
      exact keepsCells_reposition _ _ _ h
    · rw [eventsAt_bel]
      exact keepsCells_flash _ _ h
    · rw [eventsAt_escH]
      exact keepsCells_home h
    · rw [eventsAt_bs_of_zero hcol]
      exact keepsCells_flash _ _ h
    · rw [eventsAt_putc_of_pinned hcol]
      exact keepsCells_self h
    · exact keepsCells_nl_of_pinned h hcol
    · rw [eventsAt_tab_of_pinned hcol]
      exact keepsCells_self h
  case display => rcases hi with rfl | rfl | rfl <;> rfl

end Sys2Proof.Machine
end

section
/-! SUPPORT. Engine and display in step (20_memory.md R67): what keeps the address counter at the cursor, and which cells each
input instruction writes. -/

namespace Sys2Proof.Machine

/-! ### The address counter along a row -/

theorem calcAddr_succ (cols r c : Nat) : calcAddr cols r (c + 1) = calcAddr cols r c + 1 := by
  simp only [calcAddr]
  omega

theorem cellAddr_succ (cols r c : Nat) : cellAddr cols r (c + 1) = cellAddr cols r c + 1#7 := by
  rw [cellAddr, calcAddr_succ, BitVec.ofNat_add, cellAddr]

/-- Short of its last column a visible position is no end of a row. -/
theorem atRowEnd_cellAddr {cfg : DisplayConfig} {r c : Nat} (hvalid : validConfig cfg = true)
    (h : Visible cfg r (c + 1)) : atRowEnd cfg (cellAddr cfg.cols r c) = false := by
  obtain ⟨hr, hc⟩ := h
  rw [atRowEnd, List.any_eq_false]
  intro r' hr' heq
  obtain ⟨-, hend⟩ := cellAddr_inj hvalid (r' := r) (c' := c) ⟨List.mem_range.1 hr', by omega⟩ ⟨hr, by omega⟩
    (eq_of_beq heq)
  omega

/-- Nor an end of the display's own lines (log entry 9). -/
theorem atLineEnd_cellAddr {cfg : DisplayConfig} {dsp : Display} {r c : Nat} (hvalid : validConfig cfg = true)
    (h : Visible cfg r (c + 1)) (hn : dsp.n = decide (1 < cfg.lines)) (hac : dsp.ac = cellAddr cfg.cols r c) :
    atLineEnd dsp = false := by
  have ⟨hr, hc⟩ := h
  have hcell : dsp.ac.toNat = calcAddr cfg.cols r c := by
    rw [hac]
    exact cellAddr_toNat hvalid ⟨hr, by omega⟩
  have hsucc := calcAddr_succ cfg.cols r c
  have hrows := calcAddr_cases hvalid h
  by_cases hlines : 1 < cfg.lines
  · have hne : dsp.ac.toNat ≠ 0x27 ∧ dsp.ac.toNat ≠ 0x67 := by omega
    simpa [atLineEnd, hn, hlines, BitVec.toNat_eq] using hne
  · have hne : dsp.ac.toNat ≠ 0x4F := by omega
    simpa [atLineEnd, hn, hlines, BitVec.toNat_eq] using hne

/-- The display is configured and its address counter is that of the position, unless the position is past the row (R67). -/
def InStep (cfg : DisplayConfig) (r c : Nat) (dsp : Display) : Prop :=
  Configured cfg dsp ∧ (c < cfg.cols → dsp.ac = cellAddr cfg.cols r c)

theorem synced_iff (s : State) : Synced s ↔ EngineInv s ∧ InStep s.cfg s.row s.col s.display := Iff.rfl

theorem InStep.aligned {cfg : DisplayConfig} {r c : Nat} {dsp : Display} (h : InStep cfg r c dsp) : Aligned dsp := by
  obtain ⟨⟨haligned, -⟩, -⟩ := h
  exact haligned

/-- Whatever the display was in step with, a set-address command brings it to its position. -/
theorem InStep.reposition {cfg : DisplayConfig} {r c : Nat} {dsp : Display} (h : InStep cfg r c dsp) (r' c' : Nat) :
    InStep cfg r' c' (transfer cfg false (setaddrByte (cellAddr cfg.cols r' c')) dsp) := by
  have haligned := h.aligned
  obtain ⟨hconfigured, -⟩ := h
  rw [transfer_setaddr cfg haligned]
  exact ⟨hconfigured, fun _ => rfl⟩

/-- A data byte written at a visible position moves the display to the next one. -/
theorem InStep.write {cfg : DisplayConfig} {r c : Nat} {dsp : Display} (h : InStep cfg r c dsp)
    (hvalid : validConfig cfg = true) (hr : r < cfg.lines) (hc : c < cfg.cols) (ch : Byte) :
    InStep cfg r (c + 1) (transfer cfg true ch dsp) := by
  have haligned := h.aligned
  obtain ⟨hconfigured, hac⟩ := h
  have ⟨_, _, _, _, hn, _, hinc⟩ := hconfigured
  rw [transfer_data cfg haligned]
  refine ⟨hconfigured, fun hnext => ?_⟩
  have hrow : atRowEnd cfg dsp.ac = false := by
    rw [hac hc]
    exact atRowEnd_cellAddr hvalid ⟨hr, hnext⟩
  rw [cellAddr_succ, ← hac hc]
  exact nextAc_of_inside hinc hrow (atLineEnd_cellAddr (cfg := cfg) hvalid ⟨hr, hnext⟩ hn (hac hc))

theorem InStep.pad {r c k : Nat} {s : State} (h : InStep s.cfg r c s.display) (hvalid : validConfig s.cfg = true)
    (hr : r < s.cfg.lines) (hk : c + k ≤ s.cfg.cols) :
    InStep s.cfg r (c + k) (emitAll (padEvents k) s).display := by
  induction k generalizing c s with
  | zero => exact h
  | succ k ih =>
    have hwrite := h.write hvalid hr (by omega) 0x20#8
    rw [← display_writeEvents] at hwrite
    have hrest := ih (s := emitAll (writeEvents 0x20#8) s) (c := c + 1) (by rwa [emitAll_cfg]) (by rwa [emitAll_cfg])
      (by rwa [emitAll_cfg]) (by rw [emitAll_cfg]; omega)
    rwa [emitAll_cfg, ← emitAll_append, ← padEvents_succ, Nat.add_right_comm, Nat.add_assoc] at hrest

/-- FLASH leaves the display on, with the cursor and blink bits of the configuration. -/
theorem InStep.flash {r c : Nat} {s : State} (h : InStep s.cfg r c s.display) :
    InStep s.cfg r c (emitAll (flashEvents s.cfg s.timing) s).display := by
  rw [display_flashEvents _ _ h.aligned]
  obtain ⟨⟨haligned, -, -, -, hn, hf, hinc⟩, hac⟩ := h
  exact ⟨⟨haligned, rfl, rfl, rfl, hn, hf, hinc⟩, hac⟩

theorem cellAddr_origin (cols : Nat) : cellAddr cols 0 0 = 0#7 := rfl

theorem inStep_reset (s : State) : InStep s.cfg 0 0 (emitAll (resetEvents s.cfg s.timing) s).display := by
  obtain ⟨hconfigured, hac, -⟩ := display_resetEvents s.timing s
  exact ⟨hconfigured, fun _ => hac.trans (cellAddr_origin _).symm⟩

theorem InStep.home {r c : Nat} {s : State} (h : InStep s.cfg r c s.display) :
    InStep s.cfg 0 0 (emitAll (cmdEvents 0x02#8 2000) s).display := by
  rw [display_cmdEvents, transfer_home s.cfg h.aligned]
  obtain ⟨hconfigured, -⟩ := h
  exact ⟨hconfigured, fun _ => (cellAddr_origin _).symm⟩

theorem InStep.clear {r c : Nat} {s : State} (h : InStep s.cfg r c s.display) :
    InStep s.cfg 0 0 (emitAll (cmdEvents 0x01#8 2000) s).display := by
  rw [display_clearEvents h.aligned]
  obtain ⟨⟨haligned, hon, hcur, hblk, hn, hf, -⟩, -⟩ := h
  exact ⟨⟨haligned, hon, hcur, hblk, hn, hf, rfl⟩, fun _ => (cellAddr_origin _).symm⟩

theorem InStep.move {r c : Nat} {s : State} (h : InStep s.cfg r c s.display) (r' c' : Nat) :
    InStep s.cfg r' c' (emitAll (repositionEvents s.cfg.cols r' c') s).display := by
  rw [display_repositionEvents]
  exact h.reposition r' c'

theorem InStep.erase {r c : Nat} {s : State} (h : InStep s.cfg r c s.display) (r' c' : Nat) :
    InStep s.cfg r' c' (emitAll (repositionEvents s.cfg.cols r' c' ++ writeEvents 0x20#8
      ++ repositionEvents s.cfg.cols r' c') s).display := by
  rw [display_eraseEvents _ _ _ h.aligned]
  obtain ⟨hconfigured, -⟩ := h
  exact ⟨hconfigured, fun _ => rfl⟩

/-! ### Synchronisation -/

/-- NL brings the display to the start of the next row; on the last row the cursor is pinned, and the counter is free. -/
theorem inStep_after_nl {s : State} (hinv : EngineInv s) (h : InStep s.cfg s.row s.col s.display) :
    InStep s.cfg (cursorAt .nl s).row (cursorAt .nl s).col (emitAll (eventsAt .nl s) s).display := by
  obtain ⟨hvalid, hrow, hcol, -, -⟩ := hinv
  have hpad := h.pad (k := s.cfg.cols - s.col) hvalid hrow (by omega)
  by_cases hnext : s.row + 1 < s.cfg.lines
  · have hmove := InStep.move (s := emitAll (padEvents (s.cfg.cols - s.col)) s) (by rwa [emitAll_cfg])
      (s.row + 1) 0
    rw [emitAll_cfg, ← emitAll_append] at hmove
    simpa [eventsAt_nl_of_lt hnext, cursorAt, effect, hnext] using hmove
  · simpa [eventsAt_nl_of_last hnext, cursorAt, effect, hnext] using hpad

/-- Every input instruction moves the display along with the cursor. -/
theorem inStep_after {i : Instr} {s : State} (hin : formatOf i = .in9) (hinv : EngineInv s)
    (h : InStep s.cfg s.row s.col s.display) :
    InStep s.cfg (cursorAt i s).row (cursorAt i s).col (emitAll (eventsAt i s) s).display := by
  have ⟨hvalid, hrow, hcol, _, _⟩ := hinv
  cases i with
  | esc | escOther | drop => exact h
  | escR => exact inStep_reset s
  | escH => exact h.home
  | ff => exact h.clear
  | nl => exact inStep_after_nl hinv h
  | cr => exact h.move s.row 0
  | tab =>
    have hwidth : tabWidth s.cfg.cols s.col ≤ s.cfg.cols - s.col := min_le_right _ _
    exact h.pad (k := tabWidth s.cfg.cols s.col) hvalid hrow (by omega)
  | bel => exact h.flash
  | bs =>
    rcases Nat.eq_zero_or_pos s.col with hzero | hpos
    · simpa [eventsAt_bs_of_zero hzero, cursorAt, effect, hzero] using h.flash
    · rw [eventsAt_bs_of_pos hpos hcol, cursorAt, effect_bs_of_le hcol]
      simpa [hpos] using h.erase s.row (s.col - 1)
  | putc ch =>
    by_cases hpinned : s.col = s.cfg.cols
    · simpa [eventsAt_putc_of_pinned hpinned, cursorAt, effect, hpinned] using h
    · have hwrite := h.write hvalid hrow (by omega) ch
      rw [← display_writeEvents] at hwrite
      simpa [eventsAt_putc hpinned, cursorAt, effect, hpinned] using hwrite
  | wake | mode4 | fset | doff | don | entry | clr | homec | setaddr | data => cases hin

/-- Settles O55: the engine's invariant is kept, and the display follows the cursor. -/
theorem synchronisationIsKept : Obligations.SynchronisationIsKept := by
  intro s t hsynced hstep
  have ⟨hinv, hdisplay⟩ := (synced_iff s).1 hsynced
  obtain ⟨-, rfl⟩ | ⟨b, hbyte, rfl⟩ := step_cases hstep
  · exact hsynced
  · have hin := formatOf_decodeInput s.esc b
    generalize decodeInput s.esc b = i at hin
    have hnext := inStep_after hin hinv hdisplay
    rw [← after_display, ← after_row, ← after_col, ← after_cfg i s] at hnext
    exact (synced_iff _).2 ⟨engineInv_after hin (lt_length_of_byte hbyte) hinv, hnext⟩

/-! ### Which cells are written -/

/-- The addresses of `k` cells of row `r` from column `c` on. -/
def cellsFrom (cols r c k : Nat) : List Addr := (List.range' c k).map (cellAddr cols r)

theorem mem_cellsFrom {cols r c k : Nat} {a : Addr} :
    a ∈ cellsFrom cols r c k ↔ ∃ j, c ≤ j ∧ j < c + k ∧ cellAddr cols r j = a := by
  simp [cellsFrom, List.mem_range'_1, and_assoc]

theorem not_mem_cellsFrom {cols r c k : Nat} {a : Addr} (h : ∀ j, c ≤ j → j < c + k → a ≠ cellAddr cols r j) :
    a ∉ cellsFrom cols r c k := by
  rw [mem_cellsFrom]
  rintro ⟨j, hle, hlt, haddr⟩
  exact h j hle hlt haddr.symm

theorem cellsFrom_succ (cols r c k : Nat) :
    cellsFrom cols r c (k + 1) = cellAddr cols r c :: cellsFrom cols r (c + 1) k := rfl

theorem cellAddr_eq_iff {cfg : DisplayConfig} {r c r' c' : Nat} (hvalid : validConfig cfg = true)
    (h : Visible cfg r c) (h' : Visible cfg r' c') :
    cellAddr cfg.cols r c = cellAddr cfg.cols r' c' ↔ r = r' ∧ c = c' := by
  refine ⟨cellAddr_inj hvalid h h', ?_⟩
  rintro ⟨rfl, rfl⟩
  rfl

/-- A visible position is among those cells exactly when it is on their row, between their columns (R54). -/
theorem cellAddr_mem_cellsFrom {cfg : DisplayConfig} {r c k r' c' : Nat} (hvalid : validConfig cfg = true)
    (h : Visible cfg r' c') (hr : r < cfg.lines) (hk : c + k ≤ cfg.cols) :
    cellAddr cfg.cols r' c' ∈ cellsFrom cfg.cols r c k ↔ r' = r ∧ c ≤ c' ∧ c' < c + k := by
  rw [mem_cellsFrom]
  constructor
  · rintro ⟨j, hle, hlt, haddr⟩
    obtain ⟨rfl, rfl⟩ := cellAddr_inj hvalid ⟨hr, by omega⟩ h haddr
    exact ⟨rfl, hle, hlt⟩
  · rintro ⟨rfl, hle, hlt⟩
    exact ⟨c', hle, hlt, rfl⟩

/-- In step, `k` spaces are stored in the next `k` cells of the row and nowhere else. -/
theorem cell_padEvents {r c k : Nat} {s : State} (h : InStep s.cfg r c s.display) (hvalid : validConfig s.cfg = true)
    (hr : r < s.cfg.lines) (hk : c + k ≤ s.cfg.cols) (a : Addr) :
    cell (emitAll (padEvents k) s).display a =
      if a ∈ cellsFrom s.cfg.cols r c k then some 0x20#8 else cell s.display a := by
  induction k generalizing c s with
  | zero => rfl
  | succ k ih =>
    have ⟨_, hac⟩ := h
    have hfirst := cell_transfer_data s.cfg h.aligned 0x20#8 a
    have hwrite := h.write hvalid hr (by omega) 0x20#8
    rw [← display_writeEvents] at hwrite hfirst
    have hrest := ih (s := emitAll (writeEvents 0x20#8) s) (c := c + 1) (by rwa [emitAll_cfg]) (by rwa [emitAll_cfg])
      (by rwa [emitAll_cfg]) (by rw [emitAll_cfg]; omega)
    rw [padEvents_succ, emitAll_append, hrest, hfirst, emitAll_cfg, cellsFrom_succ, hac (by omega)]
    by_cases hlater : a ∈ cellsFrom s.cfg.cols r (c + 1) k <;> simp [hlater]

/-- NL stores spaces from the cursor to the end of the row: its set-address command stores nothing. -/
theorem cell_nl {s : State} (hinv : EngineInv s) (h : InStep s.cfg s.row s.col s.display) (a : Addr) :
    cell (emitAll (eventsAt .nl s) s).display a =
      if a ∈ cellsFrom s.cfg.cols s.row s.col (s.cfg.cols - s.col) then some 0x20#8 else cell s.display a := by
  obtain ⟨hvalid, hrow, hcol, -, -⟩ := hinv
  have hfits : s.col + (s.cfg.cols - s.col) ≤ s.cfg.cols := by omega
  have hpad := cell_padEvents h hvalid hrow hfits a
  by_cases hnext : s.row + 1 < s.cfg.lines
  · rw [eventsAt_nl_of_lt hnext, emitAll_append]
    obtain ⟨-, hkeep⟩ := keepsCells_reposition s.cfg.cols (s.row + 1) 0 (h.pad hvalid hrow hfits).aligned
    rw [hkeep, hpad]
  · rw [eventsAt_nl_of_last hnext, hpad]

theorem cell_tab {s : State} (hinv : EngineInv s) (h : InStep s.cfg s.row s.col s.display) (a : Addr) :
    cell (emitAll (eventsAt .tab s) s).display a =
      if a ∈ cellsFrom s.cfg.cols s.row s.col (tabWidth s.cfg.cols s.col) then some 0x20#8 else cell s.display a := by
  obtain ⟨hvalid, hrow, hcol, -, -⟩ := hinv
  have hwidth : tabWidth s.cfg.cols s.col ≤ s.cfg.cols - s.col := min_le_right _ _
  exact cell_padEvents (k := tabWidth s.cfg.cols s.col) h hvalid hrow (by omega) a

/-- Settles O58: the cells NL and TAB pad, column by column. -/
theorem paddingStoresOnlyInTheCurrentRow : Obligations.PaddingStoresOnlyInTheCurrentRow := by
  intro s hsynced
  obtain ⟨hinv, h⟩ := (synced_iff s).1 hsynced
  have ⟨_, _, hcol, _, _⟩ := hinv
  have hstop : min s.cfg.cols (s.col + (8 - s.col % 8)) = s.col + tabWidth s.cfg.cols s.col := by
    rw [tabWidth]
    omega
  refine ⟨⟨after .nl s, exec_eq_after _ s, fun c hle hlt => ?nlIn, fun a hout => ?nlOut⟩,
    ⟨after .tab s, exec_eq_after _ s, fun c hle hlt => ?tabIn, fun a hout => ?tabOut⟩⟩
  case nlIn => rw [after_display, cell_nl hinv h, if_pos (mem_cellsFrom.2 ⟨c, hle, by omega, rfl⟩)]
  case nlOut =>
    rw [after_display, cell_nl hinv h, if_neg (not_mem_cellsFrom fun j hle hlt => hout j hle (by omega))]
  case tabIn => rw [after_display, cell_tab hinv h, if_pos (mem_cellsFrom.2 ⟨c, hle, by omega, rfl⟩)]
  case tabOut =>
    rw [after_display, cell_tab hinv h, if_neg (not_mem_cellsFrom fun j hle hlt => hout j hle (by omega))]

/-! ### The screen -/

theorem screen_after (i : Instr) (s : State) (r c : Nat) :
    screen (after i s) r c = cell (emitAll (eventsAt i s) s).display (cellAddr s.cfg.cols r c) := by
  rw [screen, after_display, after_cfg]

theorem screen_after_of_keepsCells {i : Instr} {s : State} {evs : List Event} (hevents : eventsAt i s = evs)
    (h : KeepsCells s.display (emitAll evs s).display) (r c : Nat) : screen (after i s) r c = screen s r c := by
  obtain ⟨-, hkeep⟩ := h
  rw [screen_after, hevents, hkeep, screen]

theorem screen_after_nl {s : State} {r c : Nat} (hinv : EngineInv s) (h : InStep s.cfg s.row s.col s.display)
    (hvisible : Visible s.cfg r c) : screen (after .nl s) r c = expectedCell .nl s r c := by
  have ⟨hvalid, hrow, hcol, _, _⟩ := hinv
  have ⟨_, hc⟩ := hvisible
  have hcells : cellAddr s.cfg.cols r c ∈ cellsFrom s.cfg.cols s.row s.col (s.cfg.cols - s.col) ↔
      r = s.row ∧ s.col ≤ c := by
    rw [cellAddr_mem_cellsFrom hvalid hvisible hrow (by omega)]
    omega
  rw [screen_after, cell_nl hinv h]
  simp only [hcells, expectedCell, screen]

theorem screen_after_tab {s : State} {r c : Nat} (hinv : EngineInv s) (h : InStep s.cfg s.row s.col s.display)
    (hvisible : Visible s.cfg r c) : screen (after .tab s) r c = expectedCell .tab s r c := by
  have ⟨hvalid, hrow, hcol, _, _⟩ := hinv
  have ⟨_, hc⟩ := hvisible
  have hcells : cellAddr s.cfg.cols r c ∈ cellsFrom s.cfg.cols s.row s.col (tabWidth s.cfg.cols s.col) ↔
      r = s.row ∧ s.col ≤ c ∧ c < s.col + (8 - s.col % 8) := by
    rw [cellAddr_mem_cellsFrom hvalid hvisible hrow (by rw [tabWidth]; omega), tabWidth]
    omega
  rw [screen_after, cell_tab hinv h]
  simp only [hcells, expectedCell, screen]

theorem screen_after_bs {s : State} {r c : Nat} (hinv : EngineInv s) (haligned : Aligned s.display)
    (hvisible : Visible s.cfg r c) : screen (after .bs s) r c = expectedCell .bs s r c := by
  obtain ⟨hvalid, hrow, hcol, -, -⟩ := hinv
  rcases Nat.eq_zero_or_pos s.col with hzero | hpos
  · rw [screen_after_of_keepsCells (eventsAt_bs_of_zero hzero) (keepsCells_flash _ _ haligned)]
    simp [expectedCell, hzero]
  · have hcell : cellAddr s.cfg.cols r c = cellAddr s.cfg.cols s.row (s.col - 1) ↔ r = s.row ∧ c + 1 = s.col := by
      rw [cellAddr_eq_iff hvalid hvisible ⟨hrow, by omega⟩]
      omega
    rw [screen_after, eventsAt_bs_of_pos hpos hcol, display_eraseEvents _ _ _ haligned]
    simp only [cell, cell_write, hcell, expectedCell, screen]

theorem screen_after_putc {s : State} {r c : Nat} (hinv : EngineInv s) (h : InStep s.cfg s.row s.col s.display)
    (hvisible : Visible s.cfg r c) (ch : Byte) : screen (after (.putc ch) s) r c = expectedCell (.putc ch) s r c := by
  obtain ⟨hvalid, hrow, hcol, -, -⟩ := hinv
  have ⟨_, hac⟩ := h
  have ⟨_, hc⟩ := hvisible
  by_cases hpinned : s.col = s.cfg.cols
  · have hother : ¬ (r = s.row ∧ c = s.col) := by omega
    rw [screen_after, eventsAt_putc_of_pinned hpinned, expectedCell, if_neg hother]
    rfl
  · have hcell : cellAddr s.cfg.cols r c = s.display.ac ↔ r = s.row ∧ c = s.col := by
      rw [hac (by omega), cellAddr_eq_iff hvalid hvisible ⟨hrow, by omega⟩]
    rw [screen_after, eventsAt_putc hpinned, display_writeEvents, cell_transfer_data s.cfg h.aligned]
    simp only [hcell, expectedCell, screen]

/-- In step, an input instruction leaves the visible cells that its rule names (R67, R237). -/
theorem screen_after_eq_expectedCell {i : Instr} {s : State} {r c : Nat} (hin : formatOf i = .in9) (hinv : EngineInv s)
    (h : InStep s.cfg s.row s.col s.display) (hvisible : Visible s.cfg r c) :
    screen (after i s) r c = expectedCell i s r c := by
  have haligned := h.aligned
  cases i with
  | esc | escOther | drop => exact screen_after_of_keepsCells (evs := []) rfl (keepsCells_self haligned) r c
  | cr => exact screen_after_of_keepsCells (eventsAt_cr s) (keepsCells_reposition _ _ _ haligned) r c
  | bel => exact screen_after_of_keepsCells (eventsAt_bel s) (keepsCells_flash _ _ haligned) r c
  | escH => exact screen_after_of_keepsCells (eventsAt_escH s) (keepsCells_home haligned) r c
  | nl => exact screen_after_nl hinv h hvisible
  | tab => exact screen_after_tab hinv h hvisible
  | bs => exact screen_after_bs hinv haligned hvisible
  | putc ch => exact screen_after_putc hinv h hvisible ch
  | ff =>
    rw [screen_after, eventsAt_ff, display_clearEvents haligned]
    exact cell_of_blank rfl _
  | escR =>
    obtain ⟨-, -, hblank⟩ := display_resetEvents s.timing s
    rw [screen_after, eventsAt_escR]
    exact cell_of_blank hblank _
  | wake | mode4 | fset | doff | don | entry | clr | homec | setaddr | data => cases hin

/-- Settles O56: the byte's instruction, in step. -/
theorem screenFollowsTheCursor : Obligations.ScreenFollowsTheCursor := by
  intro s t b r c hsynced hbyte hstep hvisible
  obtain ⟨hinv, h⟩ := (synced_iff s).1 hsynced
  rw [eq_after_of_step hbyte hstep]
  exact screen_after_eq_expectedCell (formatOf_decodeInput s.esc b) hinv h hvisible

end Sys2Proof.Machine
end
